-- ==== Sys2Proof/Word.lean ====
section
/-! DEFINITION. The smallest unit the parser handles: a frame byte (R10). -/

namespace Sys2Proof

/-- A byte: 8 bits, bit 7 the most significant (R10). -/
abbrev Byte := BitVec 8

end Sys2Proof
end

