-- ==== Sys2Proof/Config.lean ====
section
/-! DEFINITION. What an implementation fixes (R9) and the free values, which have no body: nothing in Lean can tell what they are. -/

namespace Sys2Proof

/-- The parameters of R9 that are not constants. They are chosen at boot (R160) and held in the state, so that a statement about
every state covers every choice (DESIGN CHOICE, log 3). -/
structure Params where
  /-- `MAX_FRAME_LEN`: the largest frame length, and the size of the frame buffer. Any natural number (R9). -/
  maxFrameLen : Nat
  /-- `CAUSE_W`: the width of the fatal cause (R9, D8: open, no default). -/
  causeW : Nat
  deriving DecidableEq, Repr

/-- `LEN_W`: the smallest w with 2^w > `MAX_FRAME_LEN` (R9). -/
def Params.lenW (c : Params) : Nat := if c.maxFrameLen = 0 then 0 else Nat.log2 c.maxFrameLen + 1

/-- The parameters the reset state uses: the default of R9, and a cause of 32 bits (DESIGN CHOICE, log 3). -/
def Params.default : Params := { maxFrameLen := 65536, causeW := 32 }

/-- Free value: the byte address `i` of the frame buffer holds before anything wrote it (R37, U8; log 7). -/
opaque Config.powerUpByte : Nat → Byte

/-- Free value: `RES.frame_len` after the n-th RESET (R37, U7; log 5). -/
opaque Config.resetFrameLen : Nat → Nat

/-- Free value: which of the five codes `RES.chain_end` holds after the n-th RESET (R37, U7; log 5). -/
opaque Config.resetChainEnd : Nat → Fin 5

/-- Free value: which of its four values STAGE has after the n-th RESET (R34, R37, U13; log 5). -/
opaque Config.resetStage : Nat → Fin 4

/-- Free value: CUR after the n-th RESET (R34, R37, U13; log 5). -/
opaque Config.resetCur : Nat → BitVec 7

end Sys2Proof
end

