-- ==== Sys2Proof/Syntax.lean ====
section
/-! DEFINITION. The operations of the block, one constructor per row of spec/opcode_table.json (R67), and the levels of its input
signals (R15, R17, R19, R21). -/

namespace Sys2Proof

/-- The levels the environment drives on the block's input signals in one step. -/
structure Levels where
  /-- `rst` (R21). -/
  rst : Bool
  /-- `stop_req` (R19). -/
  stopReq : Bool
  /-- `out_ready`, driven by the sink (R17). -/
  outReady : Bool
  /-- `in_valid`, driven by the Capture Source (R15). -/
  inValid : Bool
  /-- `in_kind` (R15, R62). -/
  inKind : BitVec 2
  /-- `in_len`, `LEN_W` bits (R15). -/
  inLen : Nat
  /-- `in_cause`, `CAUSE_W` bits (R15). -/
  inCause : Nat
  /-- The frame bytes the source places in the frame buffer as part of a transfer (R15). -/
  inData : List Byte
  deriving DecidableEq, Repr

/-- Every signal at 0: nothing is offered, accepted or requested. -/
def Levels.idle : Levels :=
  { rst := false, stopReq := false, outReady := false, inValid := false, inKind := 0, inLen := 0, inCause := 0, inData := [] }

/-- The operations of the operation map (R67). -/
inductive Instr where
  /-- IN_FRAME: `in_kind = 00` with `in_len = len ≤ MAX_FRAME_LEN` and the frame's bytes (R128). -/
  | inFrame (len : Nat) (data : List Byte)
  /-- IN_FRAME_OVERSIZE: `in_kind = 00` with `in_len = len > MAX_FRAME_LEN` (R129). -/
  | inFrameOversize (len : Nat)
  /-- IN_EMPTY: `in_kind = 01` (R130). -/
  | inEmpty
  /-- IN_FATAL: `in_kind = 10` with `in_cause = cause` (R131). -/
  | inFatal (cause : Nat)
  /-- IN_RESERVED: `in_kind = 11` (R132). -/
  | inReserved
  /-- STOP: `stop_req = 1` (R127). -/
  | stop
  /-- OUT_ACCEPT: `out_ready = 1` (R133). -/
  | outAccept
  /-- RESET: `rst = 1` (R158). -/
  | reset
  /-- CHAIN_RESOLVE (R72). -/
  | chainResolve
  /-- ETH_RESOLVE (R86). -/
  | ethResolve
  /-- IPV4_RESOLVE (R91). -/
  | ipv4Resolve
  /-- TCP_RESOLVE (R106). -/
  | tcpResolve
  /-- ETH.DST (R88). -/
  | ethDst
  /-- ETH.SRC (R89). -/
  | ethSrc
  /-- ETH.ETHERTYPE (R90). -/
  | ethEthertype
  /-- IP.VERSION (R94). -/
  | ipVersion
  /-- IP.IHL (R95). -/
  | ipIhl
  /-- IP.LEN (R96). -/
  | ipLen
  /-- IP.TOS (R97). -/
  | ipTos
  /-- IP.TOTAL_LENGTH (R98). -/
  | ipTotalLength
  /-- IP.IDENTIFICATION (R99). -/
  | ipIdentification
  /-- IP.TTL (R100). -/
  | ipTtl
  /-- IP.PROTOCOL (R101). -/
  | ipProtocol
  /-- IP.CHECKSUM (R102). -/
  | ipChecksum
  /-- IP.SADDR (R103). -/
  | ipSaddr
  /-- IP.DADDR (R104). -/
  | ipDaddr
  /-- TCP.SPORT (R109). -/
  | tcpSport
  /-- TCP.DPORT (R110). -/
  | tcpDport
  /-- TCP.SEQ (R111). -/
  | tcpSeq
  /-- TCP.ACK_NUM (R112). -/
  | tcpAckNum
  /-- TCP.DOFF (R113). -/
  | tcpDoff
  /-- TCP.LEN (R114). -/
  | tcpLen
  /-- TCP.URG (R115). -/
  | tcpUrg
  /-- TCP.ACK, the flag (R116). -/
  | tcpAck
  /-- TCP.PSH (R117). -/
  | tcpPsh
  /-- TCP.RST (R118). -/
  | tcpRst
  /-- TCP.SYN (R119). -/
  | tcpSyn
  /-- TCP.FIN (R120). -/
  | tcpFin
  /-- TCP.WINDOW (R121). -/
  | tcpWindow
  /-- TCP.CHECKSUM (R122). -/
  | tcpChecksum
  /-- TCP.URG_PTR (R123). -/
  | tcpUrgPtr
  deriving DecidableEq, Repr

end Sys2Proof
end

