-- ==== Sys2Proof/WellFormed.lean ====
section
/-! DEFINITION. When an operation's operands are values its signals can carry (R9, R15, R128, R129). -/

namespace Sys2Proof

/-- The operands fit their signals: a frame carries exactly `in_len ≤ MAX_FRAME_LEN` bytes (R128), an oversize length is above
`MAX_FRAME_LEN` and fits `LEN_W` bits (R129), a cause fits `CAUSE_W` bits (R15). The other operations have no operands. -/
def Instr.wf (c : Params) : Instr → Bool
  | .inFrame len data => decide (len ≤ c.maxFrameLen) && data.length == len
  | .inFrameOversize len => decide (c.maxFrameLen < len) && decide (len < 2 ^ c.lenW)
  | .inFatal cause => decide (cause < 2 ^ c.causeW)
  | .inEmpty | .inReserved | .stop | .outAccept | .reset => true
  | .chainResolve | .ethResolve | .ipv4Resolve | .tcpResolve => true
  | .ethDst | .ethSrc | .ethEthertype => true
  | .ipVersion | .ipIhl | .ipLen | .ipTos | .ipTotalLength | .ipIdentification => true
  | .ipTtl | .ipProtocol | .ipChecksum | .ipSaddr | .ipDaddr => true
  | .tcpSport | .tcpDport | .tcpSeq | .tcpAckNum | .tcpDoff | .tcpLen => true
  | .tcpUrg | .tcpAck | .tcpPsh | .tcpRst | .tcpSyn | .tcpFin => true
  | .tcpWindow | .tcpChecksum | .tcpUrgPtr => true

end Sys2Proof
end

