-- ==== Sys2Proof/Decode.lean ====
section
/-! DEFINITION. Which operation an input selects. The spec's encodings are signal values (R62, R67), stage selectors (R76, R77) and
field positions (R59 to R61); `decodeInput` reads the input channel's signals, and `decode` reads an operation word, a byte string that
carries one of those encodings behind a format byte of the model's own (DESIGN CHOICE, log 10). The encoder stands after the decoder. -/

namespace Sys2Proof

/-- Why a byte string is no operation word. -/
inductive DecodeReject where
  /-- There is no byte. Safe. -/
  | emptyWord
  /-- The first byte is no format. Safe. -/
  | unknownFormat
  /-- The selecting value is none the table lists for its format. Safe. -/
  | unknownSelector
  /-- The word ends before its operands do. Safe. -/
  | operandMissing
  /-- A length that does not fit `LEN_W` bits. Safe. -/
  | lengthTooWide
  /-- A cause that does not fit `CAUSE_W` bits. Safe. -/
  | causeTooWide
  /-- Fewer frame bytes than `in_len` says. Safe. -/
  | frameBytesMissing
  deriving DecidableEq, Repr

/-- The number a byte string spells, first byte most significant (R10). -/
def beValue (bs : List Byte) : Nat := bs.foldl (fun acc b => acc * 256 + b.toNat) 0

/-- The `n` bytes of `v`, most significant first (R10). -/
def beBytes : Nat → Nat → List Byte
  | 0, _ => []
  | n + 1, v => beBytes n (v / 256) ++ [BitVec.ofNat 8 (v % 256)]

/-- The first `n` bytes and the others, if there are `n`. -/
def splitBytes (n : Nat) (bs : List Byte) : Option (List Byte × List Byte) :=
  if n ≤ bs.length then some (bs.take n, bs.drop n) else none

/-- Bytes that hold a length of `LEN_W` bits. -/
def Params.lenBytes (c : Params) : Nat := (c.lenW + 7) / 8

/-- Bytes that hold a cause of `CAUSE_W` bits. -/
def Params.causeBytes (c : Params) : Nat := (c.causeW + 7) / 8

/-- The input channel's operation, by `in_kind` (R62): FRAME (oversize above `MAX_FRAME_LEN`, R129), EMPTY, FATAL, reserved. `in_len`
and `in_cause` are `LEN_W` and `CAUSE_W` bits wide (R15), and a frame carries `in_len` bytes. -/
def decodeInput (c : Params) (p : Levels) : Instr :=
  if p.inKind = 0b00#2 then
    if p.inLen % 2 ^ c.lenW ≤ c.maxFrameLen then
      .inFrame (p.inLen % 2 ^ c.lenW) (p.inData.take (p.inLen % 2 ^ c.lenW))
    else .inFrameOversize (p.inLen % 2 ^ c.lenW)
  else if p.inKind = 0b01#2 then .inEmpty
  else if p.inKind = 0b10#2 then .inFatal (p.inCause % 2 ^ c.causeW)
  else .inReserved

/-- The levels that offer a boundary operation (R62, R67, R71); none for the operations inside a resolution. -/
def Instr.levels : Instr → Option Levels
  | .inFrame len data => some { Levels.idle with inValid := true, inKind := 0b00#2, inLen := len, inData := data }
  | .inFrameOversize len => some { Levels.idle with inValid := true, inKind := 0b00#2, inLen := len }
  | .inEmpty => some { Levels.idle with inValid := true, inKind := 0b01#2 }
  | .inFatal cause => some { Levels.idle with inValid := true, inKind := 0b10#2, inCause := cause }
  | .inReserved => some { Levels.idle with inValid := true, inKind := 0b11#2 }
  | .stop => some { Levels.idle with stopReq := true }
  | .outAccept => some { Levels.idle with outReady := true }
  | .reset => some { Levels.idle with rst := true }
  | .chainResolve | .ethResolve | .ipv4Resolve | .tcpResolve => none
  | .ethDst | .ethSrc | .ethEthertype => none
  | .ipVersion | .ipIhl | .ipLen | .ipTos | .ipTotalLength | .ipIdentification => none
  | .ipTtl | .ipProtocol | .ipChecksum | .ipSaddr | .ipDaddr => none
  | .tcpSport | .tcpDport | .tcpSeq | .tcpAckNum | .tcpDoff | .tcpLen => none
  | .tcpUrg | .tcpAck | .tcpPsh | .tcpRst | .tcpSyn | .tcpFin => none
  | .tcpWindow | .tcpChecksum | .tcpUrgPtr => none

/-- The accessors of the three views. -/
def accessors : List Instr :=
  [.ethDst, .ethSrc, .ethEthertype,
    .ipVersion, .ipIhl, .ipLen, .ipTos, .ipTotalLength, .ipIdentification, .ipTtl, .ipProtocol, .ipChecksum, .ipSaddr, .ipDaddr,
    .tcpSport, .tcpDport, .tcpSeq, .tcpAckNum, .tcpDoff, .tcpLen, .tcpUrg, .tcpAck, .tcpPsh, .tcpRst, .tcpSyn, .tcpFin,
    .tcpWindow, .tcpChecksum, .tcpUrgPtr]

/-- An accessor's word: its format byte (6 Ethernet, 7 IPv4, 8 TCP), then what the table gives of its field (R59 to R61): the offset from
the header's base, the number of bytes, the highest and lowest bit taken of the bytes read as one big-endian number, and the width of
the result. Empty for the other operations. -/
def accessorWord : Instr → List Byte
  | .ethDst => [6, 0, 6, 47, 0, 48]
  | .ethSrc => [6, 6, 6, 47, 0, 48]
  | .ethEthertype => [6, 12, 2, 15, 0, 16]
  | .ipVersion => [7, 0, 1, 7, 4, 4]
  | .ipIhl => [7, 0, 1, 3, 0, 4]
  | .ipLen => [7, 0, 1, 3, 0, 6]
  | .ipTos => [7, 1, 1, 7, 0, 8]
  | .ipTotalLength => [7, 2, 2, 15, 0, 16]
  | .ipIdentification => [7, 4, 2, 15, 0, 16]
  | .ipTtl => [7, 8, 1, 7, 0, 8]
  | .ipProtocol => [7, 9, 1, 7, 0, 8]
  | .ipChecksum => [7, 10, 2, 15, 0, 16]
  | .ipSaddr => [7, 12, 4, 31, 0, 32]
  | .ipDaddr => [7, 16, 4, 31, 0, 32]
  | .tcpSport => [8, 0, 2, 15, 0, 16]
  | .tcpDport => [8, 2, 2, 15, 0, 16]
  | .tcpSeq => [8, 4, 4, 31, 0, 32]
  | .tcpAckNum => [8, 8, 4, 31, 0, 32]
  | .tcpDoff => [8, 12, 1, 7, 4, 4]
  | .tcpLen => [8, 12, 1, 7, 4, 6]
  | .tcpUrg => [8, 13, 1, 5, 5, 1]
  | .tcpAck => [8, 13, 1, 4, 4, 1]
  | .tcpPsh => [8, 13, 1, 3, 3, 1]
  | .tcpRst => [8, 13, 1, 2, 2, 1]
  | .tcpSyn => [8, 13, 1, 1, 1, 1]
  | .tcpFin => [8, 13, 1, 0, 0, 1]
  | .tcpWindow => [8, 14, 2, 15, 0, 16]
  | .tcpChecksum => [8, 16, 2, 15, 0, 16]
  | .tcpUrgPtr => [8, 18, 2, 15, 0, 16]
  | .inFrame _ _ | .inFrameOversize _ | .inEmpty | .inFatal _ | .inReserved => []
  | .stop | .outAccept | .reset => []
  | .chainResolve | .ethResolve | .ipv4Resolve | .tcpResolve => []

/-- An `in_kind = 00` word after its selector: `in_len`, then that many frame bytes unless the length is oversize (R128, R129). -/
def decodeFrame (c : Params) (bs : List Byte) : Except DecodeReject (Instr × List Byte) :=
  match splitBytes c.lenBytes bs with
  | none => .error .operandMissing
  | some (lb, rest) =>
    if beValue lb ≤ c.maxFrameLen then
      match splitBytes (beValue lb) rest with
      | none => .error .frameBytesMissing
      | some (data, rest') => .ok (.inFrame (beValue lb) data, rest')
    else if beValue lb < 2 ^ c.lenW then .ok (.inFrameOversize (beValue lb), rest)
    else .error .lengthTooWide

/-- An `in_kind = 10` word after its selector: `in_cause` (R131). -/
def decodeFatal (c : Params) (bs : List Byte) : Except DecodeReject (Instr × List Byte) :=
  match splitBytes c.causeBytes bs with
  | none => .error .operandMissing
  | some (cb, rest) =>
    if beValue cb < 2 ^ c.causeW then .ok (.inFatal (beValue cb), rest) else .error .causeTooWide

/-- An input channel word: `in_kind`, then its operands (R62). -/
def decodeInChannel (c : Params) : List Byte → Except DecodeReject (Instr × List Byte)
  | [] => .error .operandMissing
  | k :: rest =>
    if k = 0b00 then decodeFrame c rest
    else if k = 0b01 then .ok (.inEmpty, rest)
    else if k = 0b10 then decodeFatal c rest
    else if k = 0b11 then .ok (.inReserved, rest)
    else .error .unknownSelector

/-- A word of a one-bit input, which selects its operation at level 1 (R67). -/
def decodeLevel (i : Instr) : List Byte → Except DecodeReject (Instr × List Byte)
  | [] => .error .operandMissing
  | b :: rest => if b = 1 then .ok (i, rest) else .error .unknownSelector

/-- A stage word: which selector, then its value: none for ETH_RESOLVE (R86), ether-type 0x0800 for IPV4_RESOLVE (R76), protocol 6 for
TCP_RESOLVE (R77). -/
def decodeStage : List Byte → Except DecodeReject (Instr × List Byte)
  | [] => .error .operandMissing
  | k :: rest =>
    if k = 0 then .ok (.ethResolve, rest)
    else if k = 1 then
      match splitBytes 2 rest with
      | none => .error .operandMissing
      | some (sel, rest') => if sel = [0x08, 0x00] then .ok (.ipv4Resolve, rest') else .error .unknownSelector
    else if k = 2 then
      match splitBytes 1 rest with
      | none => .error .operandMissing
      | some (sel, rest') => if sel = [0x06] then .ok (.tcpResolve, rest') else .error .unknownSelector
    else .error .unknownSelector

/-- An accessor word: the one whose field position it spells. -/
def decodeAccessor (bs : List Byte) : Except DecodeReject (Instr × List Byte) :=
  match splitBytes 6 bs with
  | none => .error .operandMissing
  | some (w, rest) =>
    match accessors.find? (fun i => accessorWord i == w) with
    | none => .error .unknownSelector
    | some i => .ok (i, rest)

/-- The operation a byte string begins with, and the bytes after it; a rejection by name on every other string. The format bytes follow the
order in which the table's formats appear (log 10). -/
def decode (c : Params) : List Byte → Except DecodeReject (Instr × List Byte)
  | [] => .error .emptyWord
  | f :: rest =>
    if f = 0 then decodeInChannel c rest
    else if f = 1 then decodeLevel .stop rest
    else if f = 2 then decodeLevel .outAccept rest
    else if f = 3 then decodeLevel .reset rest
    else if f = 4 then .ok (.chainResolve, rest)
    else if f = 5 then decodeStage rest
    else if f = 6 ∨ f = 7 ∨ f = 8 then decodeAccessor (f :: rest)
    else .error .unknownFormat

/-- The word of an operation, from the same encodings. -/
def encode (c : Params) : Instr → List Byte
  | .inFrame len data => [0, 0b00] ++ beBytes c.lenBytes len ++ data
  | .inFrameOversize len => [0, 0b00] ++ beBytes c.lenBytes len
  | .inEmpty => [0, 0b01]
  | .inFatal cause => [0, 0b10] ++ beBytes c.causeBytes cause
  | .inReserved => [0, 0b11]
  | .stop => [1, 1]
  | .outAccept => [2, 1]
  | .reset => [3, 1]
  | .chainResolve => [4]
  | .ethResolve => [5, 0]
  | .ipv4Resolve => [5, 1, 0x08, 0x00]
  | .tcpResolve => [5, 2, 0x06]
  | .ethDst => accessorWord .ethDst
  | .ethSrc => accessorWord .ethSrc
  | .ethEthertype => accessorWord .ethEthertype
  | .ipVersion => accessorWord .ipVersion
  | .ipIhl => accessorWord .ipIhl
  | .ipLen => accessorWord .ipLen
  | .ipTos => accessorWord .ipTos
  | .ipTotalLength => accessorWord .ipTotalLength
  | .ipIdentification => accessorWord .ipIdentification
  | .ipTtl => accessorWord .ipTtl
  | .ipProtocol => accessorWord .ipProtocol
  | .ipChecksum => accessorWord .ipChecksum
  | .ipSaddr => accessorWord .ipSaddr
  | .ipDaddr => accessorWord .ipDaddr
  | .tcpSport => accessorWord .tcpSport
  | .tcpDport => accessorWord .tcpDport
  | .tcpSeq => accessorWord .tcpSeq
  | .tcpAckNum => accessorWord .tcpAckNum
  | .tcpDoff => accessorWord .tcpDoff
  | .tcpLen => accessorWord .tcpLen
  | .tcpUrg => accessorWord .tcpUrg
  | .tcpAck => accessorWord .tcpAck
  | .tcpPsh => accessorWord .tcpPsh
  | .tcpRst => accessorWord .tcpRst
  | .tcpSyn => accessorWord .tcpSyn
  | .tcpFin => accessorWord .tcpFin
  | .tcpWindow => accessorWord .tcpWindow
  | .tcpChecksum => accessorWord .tcpChecksum
  | .tcpUrgPtr => accessorWord .tcpUrgPtr

/-- The operation word the table's bits stand for. The table gives a selecting value alone: 16 bits can only be the ether-type
selector of a stage, and 8 bits are an `in_kind` code where they are 0 to 3 and the protocol selector of a stage otherwise; the operands
an input channel word has above its code are zeros (log 11). -/
def tableWordBytes (nbits w : Nat) : List Byte :=
  if nbits = 16 then [5, 1] ++ beBytes 2 w
  else if nbits = 8 then
    if w < 4 then [0, BitVec.ofNat 8 w] ++ List.replicate 4 0 else [5, 2] ++ beBytes 1 w
  else []

/-- The operation this decoder reads from the table's bits `w`. -/
def decodeTableWord (nbits w : Nat) : Option Instr :=
  match decode Params.default (tableWordBytes nbits w) with
  | .ok (i, _) => some i
  | .error _ => none

end Sys2Proof
end

