-- ==== Sys2Proof/Machine/State.lean ====
section
/-! DEFINITION. The architectural state (10_state.md), the reasons a step can stop, and the state after reset (R37). -/

namespace Sys2Proof.Machine

/-- The value of register STATE (R23). -/
inductive Ctl where
  /-- `00`: ready for the next input. -/
  | waiting
  /-- `01`: a resolved frame's result is offered. -/
  | processing
  /-- `10`: the stop signal was honoured; terminal until reset. -/
  | stopped
  /-- `11`: the Capture Source failed; terminal until reset. -/
  | halted
  deriving DecidableEq, Repr

/-- A header stage, as an error names it (R63, R140). -/
inductive HdrStage where
  | ethernet
  | ipv4
  | tcp
  deriving DecidableEq, Repr

/-- The stage sequencer STAGE (R34). -/
inductive SeqStage where
  | eth
  | ipv4
  | tcp
  | done
  deriving DecidableEq, Repr

/-- `RES.chain_end`: why the chain stopped (R30, R63). The reserved codes are never produced (R68). -/
inductive ChainEnd where
  | complete
  | notIpv4Ethertype
  | notIpv4Version
  | notTcpProtocol
  | error
  deriving DecidableEq, Repr

/-- The Ethernet view (R26). Its `off` 0 and `len` 14 are constants of width 0. -/
structure EthView where
  dst : BitVec 48
  src : BitVec 48
  ethertype : BitVec 16
  deriving DecidableEq, Repr

/-- The IPv4 view (R27). Its `off` 14 is a constant of width 0. -/
structure IpView where
  len : BitVec 6
  version : BitVec 4
  ihl : BitVec 4
  tos : BitVec 8
  totalLength : BitVec 16
  identification : BitVec 16
  ttl : BitVec 8
  protocol : BitVec 8
  checksum : BitVec 16
  saddr : BitVec 32
  daddr : BitVec 32
  deriving DecidableEq, Repr

/-- The TCP view (R28). -/
structure TcpView where
  off : BitVec 7
  len : BitVec 6
  sport : BitVec 16
  dport : BitVec 16
  seq : BitVec 32
  ackNum : BitVec 32
  doff : BitVec 4
  urg : Bool
  ack : Bool
  psh : Bool
  rst : Bool
  syn : Bool
  fin : Bool
  window : BitVec 16
  checksum : BitVec 16
  urgPtr : BitVec 16
  deriving DecidableEq, Repr

/-- The error record (R29, R141, R142): `err_kind` is the constructor. Lengths are natural numbers (R12; log 4). -/
inductive ErrRec where
  /-- `TruncatedHeader`: `err_stage`, `err_expected`, `err_actual`. -/
  | truncated (stage : HdrStage) (expected actual : Nat)
  /-- `InvalidHeaderLength`: `err_stage`, `err_words`. -/
  | invalidLength (stage : HdrStage) (words : BitVec 4)
  deriving DecidableEq, Repr

/-- The result register RES (R25). An absent part is `none`, never a number. -/
structure Res where
  frameLen : Nat
  eth : Option EthView
  ip : Option IpView
  tcp : Option TcpView
  err : Option ErrRec
  chainEnd : ChainEnd
  deriving DecidableEq, Repr

/-- What the Ethernet or the TCP stage returns to CHAIN_RESOLVE (R72, R86, R106). -/
inductive StageResult (α : Type) where
  /-- `Ok(view)`. -/
  | ok (view : α)
  /-- `Fail(err)`. -/
  | fail (e : ErrRec)
  deriving DecidableEq, Repr

/-- What the IPv4 stage returns to CHAIN_RESOLVE (R72, R91). -/
inductive IpResult where
  /-- `Ok(view)`. -/
  | ok (view : IpView)
  /-- `Fail(err)`. -/
  | fail (e : ErrRec)
  /-- `Skip`: not an IPv4 header; no view and no error. -/
  | skip
  deriving DecidableEq, Repr

/-- The value the last stage operation returned, with the stage that returned it (the model's own, log 9). -/
inductive Returned where
  | eth (r : StageResult EthView)
  | ip (r : IpResult)
  | tcp (r : StageResult TcpView)
  deriving DecidableEq, Repr

/-- The architectural registers (R22). -/
inductive Reg where
  | state
  | flen
  | res
  | fatalCause
  deriving DecidableEq, Repr

/-- A reason of FAULTS (R151). Such a mark stops nothing: the machine goes on with it (R126; log 12). -/
inductive FaultReason where
  /-- `READ_BEYOND_FRAME`: a parser read at an offset ≥ FLEN (R41). -/
  | readBeyondFrame
  /-- `HOST_FB_WRITE_BUSY`: an environment write to FB while PROCESSING (R43). -/
  | hostFbWriteBusy
  deriving DecidableEq, Repr

/-- A reason of REFUSED (R152). Such a mark stops nothing: the machine goes on with it (R125; log 12). -/
inductive RefusalReason where
  /-- `RESERVED_IN_KIND`: an input with `in_kind = 11` (R132). -/
  | reservedInKind
  /-- `OVERSIZE_FRAME`: a FRAME with `in_len > MAX_FRAME_LEN` (R129). -/
  | oversizeFrame
  deriving DecidableEq, Repr

/-- The set FAULTS (R33): which of its two reasons are in it. -/
structure FaultMarks where
  readBeyondFrame : Bool
  hostFbWriteBusy : Bool
  deriving DecidableEq, Repr

/-- The set REFUSED (R33): which of its two reasons are in it. -/
structure RefusalMarks where
  reservedInKind : Bool
  oversizeFrame : Bool
  deriving DecidableEq, Repr

/-- A memory: address and byte pairs, addresses strictly rising. An unlisted address was never written (R40). -/
abbrev Memory := List Host.Cell

/-- What the environment does in one step (R14, R137; log 1, log 2). -/
inductive Move where
  /-- The signals have these levels while the parser takes its step (R126). -/
  | levels (p : Levels)
  /-- The Capture Source writes a byte of FB outside a FRAME transfer (R43). -/
  | fbWrite (addr : Nat) (b : Byte)
  /-- Model only: one operation of the operation map (R67) runs, given by its word (log 10). -/
  | operation (word : List Byte)
  deriving DecidableEq, Repr

/-- Everything the spec gives the block, and the environment's moves. -/
structure State where
  /-- `MAX_FRAME_LEN` and `CAUSE_W` (R9), which no step changes (log 3). -/
  cfg : Params
  /-- STATE (R23). -/
  ctl : Ctl
  /-- FLEN (R24). -/
  flen : Nat
  /-- RES (R25). -/
  res : Res
  /-- FATAL_CAUSE (R32). -/
  fatalCause : Nat
  /-- FB (R38, R40). -/
  fb : Memory
  /-- STAGE (R34). -/
  stage : SeqStage
  /-- CUR (R34). -/
  cur : BitVec 7
  /-- FAULTS (R33, R151). -/
  faults : FaultMarks
  /-- REFUSED (R33, R152). -/
  refused : RefusalMarks
  /-- The levels of the input signals (R15, R17, R19, R21). -/
  pins : Levels
  /-- The model's own: what the last stage operation returned (log 9). -/
  ret : Option Returned
  /-- The model's own: the environment's coming moves, oldest first; with none left it holds the levels it drives (log 1). -/
  agenda : List Move
  /-- The model's own: the results the sink has taken, oldest first (R54; log 17). -/
  emitted : List Res
  /-- The model's own: how many RESETs have drawn free values (log 5). -/
  fresh : Nat
  deriving DecidableEq, Repr

/-- Why the machine stops. -/
inductive Fault where
  /-- An environment write at an address outside FB, which has addresses 0 to `MAX_FRAME_LEN - 1` only (R38). Raised by
  `State.hostWrite`. Safe (log 16). -/
  | noSuchAddress
  deriving DecidableEq, Repr

/-- Why the model gives a step no meaning. -/
inductive Refusal where
  /-- An instruction the model has no meaning for. Raised by exec's arms; safe. -/
  | notModelled (mnemonic : String)
  /-- The model-only move `operation` holds a word that is no operation. Raised by `runWord`; safe (log 10). -/
  | notAnOperation (why : DecodeReject)
  /-- The model-only move `operation` holds an operation's word with bytes after it. Raised by `runWord`; safe (log 10). -/
  | bytesAfterOperation
  deriving DecidableEq, Repr

/-- RES right after power-on reset: no view, no error (R37). The other two parts are unspecified there; the values are the
model's (DESIGN CHOICE, log 6). -/
def Res.reset : Res := { frameLen := 0, eth := none, ip := none, tcp := none, err := none, chainEnd := .complete }

/-- The state right after reset (R37, R159): WAITING, no result, FB never written, no mark, nothing offered. -/
def State.reset : State :=
  { cfg := Params.default
    ctl := .waiting
    flen := 0
    res := Res.reset
    fatalCause := 0
    fb := []
    stage := .done
    cur := 0
    faults := { readBeyondFrame := false, hostFbWriteBusy := false }
    refused := { reservedInKind := false, oversizeFrame := false }
    pins := Levels.idle
    ret := none
    agenda := []
    emitted := []
    fresh := 0 }

end Sys2Proof.Machine
end

