-- ==== Sys2Proof/Machine/Ops.lean ====
section
/-! DEFINITION. The named operations over the frame buffer and the registers: reading and writing FB, recording an error (R146) and a
fatal event (R149), the return to WAITING (R148), the marks (R151, R152), reset (R158), and which operation the signals select (R126). -/

namespace Sys2Proof.Machine

/-- `ETH_HDR_LEN` (R9). -/
def ethHdrLen : Nat := 14

/-- `IPV4_BASE` (R9). -/
def ipv4Base : Nat := 14

/-- `ETHERTYPE_IPV4` (R9). -/
def ethertypeIpv4 : BitVec 16 := 0x0800

/-- `TCP_PROTO` (R9). -/
def tcpProto : BitVec 8 := 6

/-- `MIN_WORDS`: the smallest legal IHL and DOFF (R9). -/
def minWords : Nat := 5

/-- The header length a stage reports as expected when its length byte is absent is this many bytes past its base (D14). -/
def nominalHdrLen : Nat := 20

/-! ### The frame buffer (R38 to R41) -/

/-- FB as R40 gives it: `none` where nothing was written. -/
def Memory.get : Memory → Nat → Option Byte
  | [], _ => none
  | (a, b) :: m, i => if i = a then some b else if i < a then none else Memory.get m i

/-- Write one byte, keeping the addresses strictly rising. -/
def Memory.set : Memory → Nat → Byte → Memory
  | [], i, v => [(i, v)]
  | (a, b) :: m, i, v =>
    if i < a then (i, v) :: (a, b) :: m
    else if i = a then (a, v) :: m
    else (a, b) :: Memory.set m i v

/-- Write the bytes of `d` at `a`, `a + 1`, … (R40). -/
def Memory.writeFrom : Memory → Nat → List Byte → Memory
  | m, _, [] => m
  | m, a, b :: d => Memory.writeFrom (m.set a b) (a + 1) d

/-- The canonical form: strictly rising addresses. An unlisted address holds no value, so no listed pair can repeat it. -/
def Memory.wf : Memory → Bool
  | [] => true
  | [_] => true
  | (a, _) :: (a', b') :: m => decide (a < a') && Memory.wf ((a', b') :: m)

/-- Every listed address is below `n`. -/
def Memory.below (n : Nat) (m : Memory) : Bool := m.all (fun p => decide (p.1 < n))

/-- The frame the parser reads: FB and FLEN. -/
structure Frame where
  fb : Memory
  len : Nat
  deriving DecidableEq, Repr

/-- `FB[i]`. Where nothing wrote it, the byte is a free value (U8; log 7). -/
def Frame.byteAt (f : Frame) (i : Nat) : Byte := (f.fb.get i).getD (Config.powerUpByte i)

/-- `MemRead(a, n)` is defined only if `a + n ≤ FLEN` (R11, R41). -/
def Frame.guarded {α : Type} (f : Frame) (a n : Nat) (v : α) : Option α := if a + n ≤ f.len then some v else none

/-- `MemRead(a, 1)` (R11). -/
def Frame.read1 (f : Frame) (a : Nat) : Option (BitVec 8) := f.guarded a 1 (f.byteAt a)

/-- `MemRead(a, 2)`: the byte at the lowest offset is the most significant (R10, R45). -/
def Frame.read2 (f : Frame) (a : Nat) : Option (BitVec 16) := f.guarded a 2 (f.byteAt a ++ f.byteAt (a + 1))

/-- `MemRead(a, 4)` (R10, R45, R46). -/
def Frame.read4 (f : Frame) (a : Nat) : Option (BitVec 32) :=
  f.guarded a 4 (f.byteAt a ++ f.byteAt (a + 1) ++ f.byteAt (a + 2) ++ f.byteAt (a + 3))

/-- `MemRead(a, 6)` (R10, R46). -/
def Frame.read6 (f : Frame) (a : Nat) : Option (BitVec 48) :=
  f.guarded a 6
    (f.byteAt a ++ f.byteAt (a + 1) ++ f.byteAt (a + 2) ++ f.byteAt (a + 3) ++ f.byteAt (a + 4) ++ f.byteAt (a + 5))

/-- The high nibble `b[7:4]` (R10). -/
def hiNibble (b : Byte) : BitVec 4 := b.extractLsb' 4 4

/-- The low nibble `b[3:0]` (R10). -/
def loNibble (b : Byte) : BitVec 4 := b.extractLsb' 0 4

/-- A header length in bytes: 32-bit words scaled by 4, as a natural number (R66). -/
def wordsToBytes (words : BitVec 4) : Nat := words.toNat * 4

/-- The current frame. -/
def State.frame (s : State) : Frame := { fb := s.fb, len := s.flen }

/-! ### RES during a resolution (R72, R146) -/

/-- RES as CHAIN_RESOLVE starts it: the frame's length and nothing else. `chain_end` is written by every way the chain ends (R72). -/
def Res.start (len : Nat) : Res := { frameLen := len, eth := none, ip := none, tcp := none, err := none, chainEnd := .complete }

/-- `raise`: record the error, end the chain with ERROR, keep the views resolved before (R11, R146). -/
def Res.raise (r : Res) (e : ErrRec) : Res := { r with err := some e, chainEnd := .error }

/-- `end_chain(code)`: end the chain with no error (R11). -/
def Res.endChain (r : Res) (c : ChainEnd) : Res := { r with chainEnd := c }

/-! ### Registers, marks and transactions -/

/-- `fault(reason)`: add the reason to FAULTS (R151). -/
def State.addFault (s : State) : FaultReason → State
  | .readBeyondFrame => { s with faults := { s.faults with readBeyondFrame := true } }
  | .hostFbWriteBusy => { s with faults := { s.faults with hostFbWriteBusy := true } }

/-- `refuse(reason)`: add the reason to REFUSED (R152). -/
def State.addRefusal (s : State) : RefusalReason → State
  | .reservedInKind => { s with refused := { s.refused with reservedInKind := true } }
  | .oversizeFrame => { s with refused := { s.refused with oversizeFrame := true } }

/-- `in_ready = (STATE = WAITING) and (stop_req = 0)` (R16): the only condition under which an input is transferred. -/
def State.inReady (s : State) : Bool := decide (s.ctl = .waiting) && !s.pins.stopReq

/-- The parser takes steps in WAITING and PROCESSING only; STOPPED and HALTED are terminal (R135). -/
def State.running (s : State) : Bool := decide (s.ctl = .waiting) || decide (s.ctl = .processing)

/-- An operation of the resolver that leaves `t`: in a terminal state the parser takes no step (R135). -/
def State.resolverStep (s t : State) : Host.Outcome State Fault Refusal := if s.running then .next t else .next s

/-- Write RES as a resolution leaves it, with the sequencer at DONE and the cursor where the last header began (R72, R34; log 8). A
resolution that read beyond the frame would be a fault and leave no result (R41). -/
def State.putResolution (s : State) (r : Option (Res × BitVec 7)) : State :=
  match r with
  | none => s.addFault .readBeyondFrame
  | some (res, cur) => { s with res := res, stage := .done, cur := cur }

/-- A stage operation returns to CHAIN_RESOLVE: the sequencer stands at that stage and its header's start (R34), and no register is
written (R86, R91, R106; log 9). -/
def State.putReturn (s : State) (stage : SeqStage) (cur : Nat) (r : Option Returned) : State :=
  match r with
  | none => s.addFault .readBeyondFrame
  | some v => { s with stage := stage, cur := BitVec.ofNat 7 cur, ret := some v }

/-- An accessor writes one field of the Ethernet view: `none` is a read beyond the frame, which yields no value (R41; log 14). -/
def State.putEth {α : Type} (s : State) (x : Option α) (put : EthView → α → EthView) : State :=
  match s.res.eth with
  | none => s
  | some v =>
    match x with
    | none => s.addFault .readBeyondFrame
    | some a => { s with res := { s.res with eth := some (put v a) } }

/-- An accessor writes one field of the IPv4 view (R41; log 14). -/
def State.putIp {α : Type} (s : State) (x : IpView → Option α) (put : IpView → α → IpView) : State :=
  match s.res.ip with
  | none => s
  | some v =>
    match x v with
    | none => s.addFault .readBeyondFrame
    | some a => { s with res := { s.res with ip := some (put v a) } }

/-- An accessor writes one field of the TCP view (R41; log 14). -/
def State.putTcp {α : Type} (s : State) (x : TcpView → Option α) (put : TcpView → α → TcpView) : State :=
  match s.res.tcp with
  | none => s
  | some v =>
    match x v with
    | none => s.addFault .readBeyondFrame
    | some a => { s with res := { s.res with tcp := some (put v a) } }

/-- The Capture Source's part of a FRAME transfer: `FB[i] <- d[i]` for `i < L`, and FLEN is L (R128, R15). -/
def State.loadFrame (s : State) (len : Nat) (data : List Byte) : State :=
  { s with fb := s.fb.writeFrom 0 (data.take len), flen := len }

/-- Entry into the fatal event `CaptureFatal{cause}`: FATAL_CAUSE latches the cause and STATE becomes HALTED; nothing else is saved
or changed (R131, R143, R149). -/
def State.takeFatal (s : State) (cause : Nat) : State := { s with fatalCause := cause, ctl := .halted }

/-- The sink's acceptance: RES goes to the sink and STATE returns to WAITING; the only return there is (R133, R148). -/
def State.acceptResult (s : State) : State := { s with ctl := .waiting, emitted := s.emitted ++ [s.res] }

/-- The five codes of `chain_end`, numbered as in R63. -/
def ChainEnd.ofFin (n : Fin 5) : ChainEnd :=
  match n with
  | 0 => .complete
  | 1 => .notIpv4Ethertype
  | 2 => .notIpv4Version
  | 3 => .notTcpProtocol
  | 4 => .error

/-- The four values of STAGE, in chain order (R34). -/
def SeqStage.ofFin (n : Fin 4) : SeqStage :=
  match n with
  | 0 => .eth
  | 1 => .ipv4
  | 2 => .tcp
  | 3 => .done

/-- RES after a RESET: no view, no error; `frame_len`, which has `LEN_W` bits, and `chain_end` are free values (R37, U7; log 5). -/
def Res.afterReset (c : Params) (n : Nat) : Res :=
  { frameLen := Config.resetFrameLen n % 2 ^ c.lenW
    eth := none
    ip := none
    tcp := none
    err := none
    chainEnd := ChainEnd.ofFin (Config.resetChainEnd n) }

/-- Every register to its value in R37 (R158). FB, FAULTS and REFUSED are kept; what R37 leaves unspecified is a free value (log 5). -/
def State.resetRegisters (s : State) : State :=
  { s with
    ctl := .waiting
    flen := 0
    fatalCause := 0
    res := Res.afterReset s.cfg s.fresh
    stage := SeqStage.ofFin (Config.resetStage s.fresh)
    cur := Config.resetCur s.fresh
    ret := none
    fresh := s.fresh + 1 }

/-- The Capture Source writes FB outside a FRAME transfer (R43): the write is applied, RES is untouched, and while PROCESSING it is the
fault `HOST_FB_WRITE_BUSY`, after which the machine goes on. An address outside FB does not exist (R38; log 16). -/
def State.hostWrite (addr : Nat) (b : Byte) (s : State) : Host.Outcome State Fault Refusal :=
  if addr < s.cfg.maxFrameLen then
    if s.ctl = .processing then .next ({ s with fb := s.fb.set addr b }.addFault .hostFbWriteBusy)
    else .next { s with fb := s.fb.set addr b }
  else .fault .noSuchAddress

/-- What the sink reads of FB: a byte of `FB[0, FLEN)` while PROCESSING, nothing it may rely on otherwise (R44; log 18). -/
def State.sinkRead (s : State) (i : Nat) : Option Byte :=
  if s.ctl = .processing ∧ i < s.flen then some (s.frame.byteAt i) else none

/-! ### Which operation the signals select (R125, R126) -/

/-- The row of R125 a step takes: reset before every other; in WAITING a stop before an input; in PROCESSING the sink's
acceptance; none in the terminal states or where nothing is offered. -/
def State.select (s : State) : Option Instr :=
  if s.pins.rst then some .reset
  else
    match s.ctl with
    | .waiting =>
      if s.pins.stopReq then some .stop
      else if s.pins.inValid then some (decodeInput s.cfg s.pins)
      else none
    | .processing => if s.pins.outReady then some .outAccept else none
    | .stopped => none
    | .halted => none

/-- The levels while operation `i` runs from its word: a boundary operation's own, otherwise those already driven (log 10). -/
def State.withPinsOf (s : State) (i : Instr) : State :=
  match i.levels with
  | none => s
  | some p => { s with pins := p }

end Sys2Proof.Machine
end

