-- ==== Sys2Proof/Machine/Operands.lean ====
section
/-! DEFINITION. The value of every header field (R59 to R61, R65, R66), read from the frame. `none` is a read beyond the frame (R41). -/

namespace Sys2Proof.Machine

/-! ### Ethernet, base 0 (R59) -/

/-- `eth.dst <- MemRead(0, 6)` (R88). -/
def fieldEthDst (f : Frame) : Option (BitVec 48) := f.read6 0

/-- `eth.src <- MemRead(6, 6)` (R89). -/
def fieldEthSrc (f : Frame) : Option (BitVec 48) := f.read6 6

/-- `eth.ethertype <- MemRead(12, 2)` (R90). -/
def fieldEthEthertype (f : Frame) : Option (BitVec 16) := f.read2 12

/-! ### IPv4, base 14 (R60) -/

/-- `ip.version <- FB[14][7:4]` (R94). -/
def fieldIpVersion (f : Frame) : Option (BitVec 4) := (f.read1 14).map hiNibble

/-- `ip.ihl <- FB[14][3:0]` (R95). -/
def fieldIpIhl (f : Frame) : Option (BitVec 4) := (f.read1 14).map loNibble

/-- `ip.len <- ip.ihl * 4`, 6 bits (R96). -/
def fieldIpLen (ihl : BitVec 4) : BitVec 6 := BitVec.ofNat 6 (wordsToBytes ihl)

/-- `ip.tos <- FB[15]` (R97). -/
def fieldIpTos (f : Frame) : Option (BitVec 8) := f.read1 15

/-- `ip.total_length <- MemRead(16, 2)` (R98). -/
def fieldIpTotalLength (f : Frame) : Option (BitVec 16) := f.read2 16

/-- `ip.identification <- MemRead(18, 2)` (R99). -/
def fieldIpIdentification (f : Frame) : Option (BitVec 16) := f.read2 18

/-- `ip.ttl <- FB[22]` (R100). -/
def fieldIpTtl (f : Frame) : Option (BitVec 8) := f.read1 22

/-- `ip.protocol <- FB[23]` (R101). -/
def fieldIpProtocol (f : Frame) : Option (BitVec 8) := f.read1 23

/-- `ip.checksum <- MemRead(24, 2)` (R102). -/
def fieldIpChecksum (f : Frame) : Option (BitVec 16) := f.read2 24

/-- `ip.saddr <- MemRead(26, 4)` (R103). -/
def fieldIpSaddr (f : Frame) : Option (BitVec 32) := f.read4 26

/-- `ip.daddr <- MemRead(30, 4)` (R104). -/
def fieldIpDaddr (f : Frame) : Option (BitVec 32) := f.read4 30

/-! ### TCP, base T (R61) -/

/-- `tcp.sport <- MemRead(T, 2)` (R109). -/
def fieldTcpSport (f : Frame) (t : Nat) : Option (BitVec 16) := f.read2 t

/-- `tcp.dport <- MemRead(T + 2, 2)` (R110). -/
def fieldTcpDport (f : Frame) (t : Nat) : Option (BitVec 16) := f.read2 (t + 2)

/-- `tcp.seq <- MemRead(T + 4, 4)` (R111). -/
def fieldTcpSeq (f : Frame) (t : Nat) : Option (BitVec 32) := f.read4 (t + 4)

/-- `tcp.ack_num <- MemRead(T + 8, 4)` (R112). -/
def fieldTcpAckNum (f : Frame) (t : Nat) : Option (BitVec 32) := f.read4 (t + 8)

/-- `tcp.doff <- FB[T + 12][7:4]` (R113). -/
def fieldTcpDoff (f : Frame) (t : Nat) : Option (BitVec 4) := (f.read1 (t + 12)).map hiNibble

/-- `tcp.len <- tcp.doff * 4`, 6 bits (R114). -/
def fieldTcpLen (doff : BitVec 4) : BitVec 6 := BitVec.ofNat 6 (wordsToBytes doff)

/-- A control flag: one bit of byte T + 13 (R115 to R120). -/
def fieldTcpFlag (k : Nat) (f : Frame) (t : Nat) : Option Bool := (f.read1 (t + 13)).map (fun b => b.getLsbD k)

/-- `tcp.urg <- FB[T + 13][5]` (R115). -/
def fieldTcpUrg (f : Frame) (t : Nat) : Option Bool := fieldTcpFlag 5 f t

/-- `tcp.ack <- FB[T + 13][4]` (R116). -/
def fieldTcpAck (f : Frame) (t : Nat) : Option Bool := fieldTcpFlag 4 f t

/-- `tcp.psh <- FB[T + 13][3]` (R117). -/
def fieldTcpPsh (f : Frame) (t : Nat) : Option Bool := fieldTcpFlag 3 f t

/-- `tcp.rst <- FB[T + 13][2]` (R118). -/
def fieldTcpRst (f : Frame) (t : Nat) : Option Bool := fieldTcpFlag 2 f t

/-- `tcp.syn <- FB[T + 13][1]` (R119). -/
def fieldTcpSyn (f : Frame) (t : Nat) : Option Bool := fieldTcpFlag 1 f t

/-- `tcp.fin <- FB[T + 13][0]` (R120). -/
def fieldTcpFin (f : Frame) (t : Nat) : Option Bool := fieldTcpFlag 0 f t

/-- `tcp.window <- MemRead(T + 14, 2)` (R121). -/
def fieldTcpWindow (f : Frame) (t : Nat) : Option (BitVec 16) := f.read2 (t + 14)

/-- `tcp.checksum <- MemRead(T + 16, 2)` (R122). -/
def fieldTcpChecksum (f : Frame) (t : Nat) : Option (BitVec 16) := f.read2 (t + 16)

/-- `tcp.urg_ptr <- MemRead(T + 18, 2)` (R123). -/
def fieldTcpUrgPtr (f : Frame) (t : Nat) : Option (BitVec 16) := f.read2 (t + 18)

end Sys2Proof.Machine
end

