-- ==== Sys2Proof/Machine/Ethernet.lean ====
section
/-! DEFINITION. The Ethernet stage and its accessors (41_ethernet.md, R86 to R90). -/

namespace Sys2Proof.Machine

/-- The Ethernet view's fields (R86). -/
def ethView (f : Frame) : Option EthView := do
  let dst ← fieldEthDst f
  let src ← fieldEthSrc f
  let ethertype ← fieldEthEthertype f
  return { dst := dst, src := src, ethertype := ethertype }

/-- ETH_RESOLVE as a function of the frame (R86). -/
def ethStage (f : Frame) : Option (StageResult EthView) :=
  if f.len < ethHdrLen then some (.fail (.truncated .ethernet ethHdrLen f.len))
  else (ethView f).map .ok

/-- ETH_RESOLVE (R86): always selected; returns its result and writes no register. -/
def execEthResolve (s : State) : Host.Outcome State Fault Refusal :=
  s.resolverStep (s.putReturn .eth 0 ((ethStage s.frame).map .eth))

/-- ETH.DST (R88). -/
def execEthDst (s : State) : Host.Outcome State Fault Refusal :=
  s.resolverStep (s.putEth (fieldEthDst s.frame) (fun v x => { v with dst := x }))

/-- ETH.SRC (R89). -/
def execEthSrc (s : State) : Host.Outcome State Fault Refusal :=
  s.resolverStep (s.putEth (fieldEthSrc s.frame) (fun v x => { v with src := x }))

/-- ETH.ETHERTYPE (R90). -/
def execEthEthertype (s : State) : Host.Outcome State Fault Refusal :=
  s.resolverStep (s.putEth (fieldEthEthertype s.frame) (fun v x => { v with ethertype := x }))

end Sys2Proof.Machine
end

