-- ==== Sys2Proof/Machine/Ipv4.lean ====
section
/-! DEFINITION. The IPv4 stage and its accessors (42_ipv4.md, R91 to R105). -/

namespace Sys2Proof.Machine

/-- The IPv4 view's fields (R91); flags, fragment offset and options have no accessor (R105). -/
def ipView (f : Frame) : Option IpView := do
  let version ← fieldIpVersion f
  let ihl ← fieldIpIhl f
  let tos ← fieldIpTos f
  let totalLength ← fieldIpTotalLength f
  let identification ← fieldIpIdentification f
  let ttl ← fieldIpTtl f
  let protocol ← fieldIpProtocol f
  let checksum ← fieldIpChecksum f
  let saddr ← fieldIpSaddr f
  let daddr ← fieldIpDaddr f
  return {
    len := fieldIpLen ihl
    version := version
    ihl := ihl
    tos := tos
    totalLength := totalLength
    identification := identification
    ttl := ttl
    protocol := protocol
    checksum := checksum
    saddr := saddr
    daddr := daddr }

/-- IPV4_RESOLVE as a function of the frame (R91): the three length checks in order, then the version test, and nothing else (R93). -/
def ipv4Stage (f : Frame) : Option IpResult :=
  if f.len < ipv4Base + 1 then some (.fail (.truncated .ipv4 (ipv4Base + nominalHdrLen) f.len))
  else
    match fieldIpIhl f with
    | none => none
    | some ihl =>
      if ihl.toNat < minWords then some (.fail (.invalidLength .ipv4 ihl))
      else if f.len < ipv4Base + wordsToBytes ihl then
        some (.fail (.truncated .ipv4 (ipv4Base + wordsToBytes ihl) f.len))
      else
        match fieldIpVersion f with
        | none => none
        | some version => if version = 4 then (ipView f).map .ok else some .skip

/-- The IPv4 stage is selected by a present Ethernet view with ether-type 0x0800 (R76). -/
def Res.selectsIpv4 (r : Res) : Bool :=
  match r.eth with
  | none => false
  | some v => decide (v.ethertype = ethertypeIpv4)

/-- IPV4_RESOLVE (R91): where it is selected it returns its result and writes no register; it does not run where it is not (log 13). -/
def execIpv4Resolve (s : State) : Host.Outcome State Fault Refusal :=
  if s.res.selectsIpv4 then s.resolverStep (s.putReturn .ipv4 ipv4Base ((ipv4Stage s.frame).map .ip)) else .next s

/-- IP.VERSION (R94). -/
def execIpVersion (s : State) : Host.Outcome State Fault Refusal :=
  s.resolverStep (s.putIp (fun _ => fieldIpVersion s.frame) (fun v x => { v with version := x }))

/-- IP.IHL (R95). -/
def execIpIhl (s : State) : Host.Outcome State Fault Refusal :=
  s.resolverStep (s.putIp (fun _ => fieldIpIhl s.frame) (fun v x => { v with ihl := x }))

/-- IP.LEN (R96): its operand is the view's `ihl`. -/
def execIpLen (s : State) : Host.Outcome State Fault Refusal :=
  s.resolverStep (s.putIp (fun v => some (fieldIpLen v.ihl)) (fun v x => { v with len := x }))

/-- IP.TOS (R97). -/
def execIpTos (s : State) : Host.Outcome State Fault Refusal :=
  s.resolverStep (s.putIp (fun _ => fieldIpTos s.frame) (fun v x => { v with tos := x }))

/-- IP.TOTAL_LENGTH (R98). -/
def execIpTotalLength (s : State) : Host.Outcome State Fault Refusal :=
  s.resolverStep (s.putIp (fun _ => fieldIpTotalLength s.frame) (fun v x => { v with totalLength := x }))

/-- IP.IDENTIFICATION (R99). -/
def execIpIdentification (s : State) : Host.Outcome State Fault Refusal :=
  s.resolverStep (s.putIp (fun _ => fieldIpIdentification s.frame) (fun v x => { v with identification := x }))

/-- IP.TTL (R100). -/
def execIpTtl (s : State) : Host.Outcome State Fault Refusal :=
  s.resolverStep (s.putIp (fun _ => fieldIpTtl s.frame) (fun v x => { v with ttl := x }))

/-- IP.PROTOCOL (R101). -/
def execIpProtocol (s : State) : Host.Outcome State Fault Refusal :=
  s.resolverStep (s.putIp (fun _ => fieldIpProtocol s.frame) (fun v x => { v with protocol := x }))

/-- IP.CHECKSUM (R102): reported, never verified. -/
def execIpChecksum (s : State) : Host.Outcome State Fault Refusal :=
  s.resolverStep (s.putIp (fun _ => fieldIpChecksum s.frame) (fun v x => { v with checksum := x }))

/-- IP.SADDR (R103). -/
def execIpSaddr (s : State) : Host.Outcome State Fault Refusal :=
  s.resolverStep (s.putIp (fun _ => fieldIpSaddr s.frame) (fun v x => { v with saddr := x }))

/-- IP.DADDR (R104). -/
def execIpDaddr (s : State) : Host.Outcome State Fault Refusal :=
  s.resolverStep (s.putIp (fun _ => fieldIpDaddr s.frame) (fun v x => { v with daddr := x }))

end Sys2Proof.Machine
end

