-- ==== Sys2Proof/Machine/Tcp.lean ====
section
/-! DEFINITION. The TCP stage and its accessors (43_tcp.md, R106 to R124). -/

namespace Sys2Proof.Machine

/-- The TCP view's fields, at header start `t` (R106); reserved bits, NS, CWR, ECE and options have no accessor (R124). -/
def tcpView (f : Frame) (t : Nat) : Option TcpView := do
  let sport ← fieldTcpSport f t
  let dport ← fieldTcpDport f t
  let seq ← fieldTcpSeq f t
  let ackNum ← fieldTcpAckNum f t
  let doff ← fieldTcpDoff f t
  let urg ← fieldTcpUrg f t
  let ack ← fieldTcpAck f t
  let psh ← fieldTcpPsh f t
  let rst ← fieldTcpRst f t
  let syn ← fieldTcpSyn f t
  let fin ← fieldTcpFin f t
  let window ← fieldTcpWindow f t
  let checksum ← fieldTcpChecksum f t
  let urgPtr ← fieldTcpUrgPtr f t
  return {
    off := BitVec.ofNat 7 t
    len := fieldTcpLen doff
    sport := sport
    dport := dport
    seq := seq
    ackNum := ackNum
    doff := doff
    urg := urg
    ack := ack
    psh := psh
    rst := rst
    syn := syn
    fin := fin
    window := window
    checksum := checksum
    urgPtr := urgPtr }

/-- TCP_RESOLVE as a function of the frame and the header start T (R106): the three length checks in order, and nothing else (R108). -/
def tcpStage (f : Frame) (t : Nat) : Option (StageResult TcpView) :=
  if f.len < t + 13 then some (.fail (.truncated .tcp (t + nominalHdrLen) f.len))
  else
    match fieldTcpDoff f t with
    | none => none
    | some doff =>
      if doff.toNat < minWords then some (.fail (.invalidLength .tcp doff))
      else if f.len < t + wordsToBytes doff then some (.fail (.truncated .tcp (t + wordsToBytes doff) f.len))
      else (tcpView f t).map .ok

/-- The TCP stage is selected by a present IPv4 view with protocol 6; its header starts at T = 14 + ip_len (R77, R66). -/
def Res.selectsTcp (r : Res) : Option Nat :=
  match r.ip with
  | none => none
  | some v => if v.protocol = tcpProto then some (ipv4Base + v.len.toNat) else none

/-- TCP_RESOLVE (R106): where it is selected it returns its result and writes no register; it does not run where it is not (log 13). -/
def execTcpResolve (s : State) : Host.Outcome State Fault Refusal :=
  match s.res.selectsTcp with
  | none => .next s
  | some t => s.resolverStep (s.putReturn .tcp t ((tcpStage s.frame t).map .tcp))

/-- TCP.SPORT (R109), at the view's own start (log 14). -/
def execTcpSport (s : State) : Host.Outcome State Fault Refusal :=
  s.resolverStep (s.putTcp (fun v => fieldTcpSport s.frame v.off.toNat) (fun v x => { v with sport := x }))

/-- TCP.DPORT (R110), at the view's own start (log 14). -/
def execTcpDport (s : State) : Host.Outcome State Fault Refusal :=
  s.resolverStep (s.putTcp (fun v => fieldTcpDport s.frame v.off.toNat) (fun v x => { v with dport := x }))

/-- TCP.SEQ (R111), at the view's own start (log 14). -/
def execTcpSeq (s : State) : Host.Outcome State Fault Refusal :=
  s.resolverStep (s.putTcp (fun v => fieldTcpSeq s.frame v.off.toNat) (fun v x => { v with seq := x }))

/-- TCP.ACK_NUM (R112), at the view's own start (log 14). -/
def execTcpAckNum (s : State) : Host.Outcome State Fault Refusal :=
  s.resolverStep (s.putTcp (fun v => fieldTcpAckNum s.frame v.off.toNat) (fun v x => { v with ackNum := x }))

/-- TCP.DOFF (R113), at the view's own start (log 14). -/
def execTcpDoff (s : State) : Host.Outcome State Fault Refusal :=
  s.resolverStep (s.putTcp (fun v => fieldTcpDoff s.frame v.off.toNat) (fun v x => { v with doff := x }))

/-- TCP.LEN (R114): its operand is the view's `doff`. -/
def execTcpLen (s : State) : Host.Outcome State Fault Refusal :=
  s.resolverStep (s.putTcp (fun v => some (fieldTcpLen v.doff)) (fun v x => { v with len := x }))

/-- TCP.URG (R115), at the view's own start (log 14). -/
def execTcpUrg (s : State) : Host.Outcome State Fault Refusal :=
  s.resolverStep (s.putTcp (fun v => fieldTcpUrg s.frame v.off.toNat) (fun v x => { v with urg := x }))

/-- TCP.ACK, the flag (R116), at the view's own start (log 14). -/
def execTcpAck (s : State) : Host.Outcome State Fault Refusal :=
  s.resolverStep (s.putTcp (fun v => fieldTcpAck s.frame v.off.toNat) (fun v x => { v with ack := x }))

/-- TCP.PSH (R117), at the view's own start (log 14). -/
def execTcpPsh (s : State) : Host.Outcome State Fault Refusal :=
  s.resolverStep (s.putTcp (fun v => fieldTcpPsh s.frame v.off.toNat) (fun v x => { v with psh := x }))

/-- TCP.RST (R118), at the view's own start (log 14). -/
def execTcpRst (s : State) : Host.Outcome State Fault Refusal :=
  s.resolverStep (s.putTcp (fun v => fieldTcpRst s.frame v.off.toNat) (fun v x => { v with rst := x }))

/-- TCP.SYN (R119), at the view's own start (log 14). -/
def execTcpSyn (s : State) : Host.Outcome State Fault Refusal :=
  s.resolverStep (s.putTcp (fun v => fieldTcpSyn s.frame v.off.toNat) (fun v x => { v with syn := x }))

/-- TCP.FIN (R120), at the view's own start (log 14). -/
def execTcpFin (s : State) : Host.Outcome State Fault Refusal :=
  s.resolverStep (s.putTcp (fun v => fieldTcpFin s.frame v.off.toNat) (fun v x => { v with fin := x }))

/-- TCP.WINDOW (R121), at the view's own start (log 14). -/
def execTcpWindow (s : State) : Host.Outcome State Fault Refusal :=
  s.resolverStep (s.putTcp (fun v => fieldTcpWindow s.frame v.off.toNat) (fun v x => { v with window := x }))

/-- TCP.CHECKSUM (R122), at the view's own start (log 14). -/
def execTcpChecksum (s : State) : Host.Outcome State Fault Refusal :=
  s.resolverStep (s.putTcp (fun v => fieldTcpChecksum s.frame v.off.toNat) (fun v x => { v with checksum := x }))

/-- TCP.URG_PTR (R123), at the view's own start (log 14). -/
def execTcpUrgPtr (s : State) : Host.Outcome State Fault Refusal :=
  s.resolverStep (s.putTcp (fun v => fieldTcpUrgPtr s.frame v.off.toNat) (fun v x => { v with urgPtr := x }))

end Sys2Proof.Machine
end

