-- ==== Sys2Proof/Machine/Chain.lean ====
section
/-! DEFINITION. The header chain resolver (40_chain_resolver.md): CHAIN_RESOLVE as one atomic step (R72, R73), and beside it the
same resolution spread over the stage operations, which R73 says must give the same RES. -/

namespace Sys2Proof.Machine

/-- The part of CHAIN_RESOLVE after the IPv4 view is produced (R72, R77). -/
def chainAfterIpv4 (f : Frame) (res : Res) (iv : IpView) : Option (Res × BitVec 7) :=
  if iv.protocol = tcpProto then
    match tcpStage f (ipv4Base + iv.len.toNat) with
    | none => none
    | some (.fail e) => some (res.raise e, BitVec.ofNat 7 (ipv4Base + iv.len.toNat))
    | some (.ok tv) => some (({ res with tcp := some tv }).endChain .complete, BitVec.ofNat 7 (ipv4Base + iv.len.toNat))
  else some (res.endChain .notTcpProtocol, BitVec.ofNat 7 ipv4Base)

/-- The part of CHAIN_RESOLVE after the Ethernet view is produced (R72, R76). -/
def chainAfterEth (f : Frame) (res : Res) (ev : EthView) : Option (Res × BitVec 7) :=
  if ev.ethertype = ethertypeIpv4 then
    match ipv4Stage f with
    | none => none
    | some (.fail e) => some (res.raise e, BitVec.ofNat 7 ipv4Base)
    | some .skip => some (res.endChain .notIpv4Version, BitVec.ofNat 7 ipv4Base)
    | some (.ok iv) => chainAfterIpv4 f { res with ip := some iv } iv
  else some (res.endChain .notIpv4Ethertype, 0)

/-- CHAIN_RESOLVE as a function of the frame (R72): the RES it writes, and the start of the last header it resolved (R34; log 8). `none`
would be a read beyond the frame (R41), which R84 says never happens. -/
def chainResolve (f : Frame) : Option (Res × BitVec 7) :=
  match ethStage f with
  | none => none
  | some (.fail e) => some ((Res.start f.len).raise e, 0)
  | some (.ok ev) => chainAfterEth f { Res.start f.len with eth := some ev } ev

/-- CHAIN_RESOLVE (R72): writes the whole of RES and nothing else but the sequencer. -/
def execChainResolve (s : State) : Host.Outcome State Fault Refusal :=
  s.resolverStep (s.putResolution (chainResolve s.frame))

/-- Begin a resolution spread over several operations: RES holds the frame's length, the sequencer is at ETH (R34, R72, R73). -/
def State.chainStart (s : State) : State := { s with res := Res.start s.flen, stage := .eth, cur := 0 }

/-- CHAIN_RESOLVE takes the result a stage returned into RES and moves the sequencer to the next stage or to DONE (R72, R34). -/
def State.chainTake (s : State) : State :=
  match s.ret with
  | none => s
  | some (.eth (.fail e)) => { s with res := s.res.raise e, stage := .done }
  | some (.eth (.ok ev)) =>
    if ev.ethertype = ethertypeIpv4 then
      { s with res := { s.res with eth := some ev }, stage := .ipv4, cur := BitVec.ofNat 7 ipv4Base }
    else { s with res := ({ s.res with eth := some ev }).endChain .notIpv4Ethertype, stage := .done }
  | some (.ip (.fail e)) => { s with res := s.res.raise e, stage := .done }
  | some (.ip .skip) => { s with res := s.res.endChain .notIpv4Version, stage := .done }
  | some (.ip (.ok iv)) =>
    if iv.protocol = tcpProto then
      { s with res := { s.res with ip := some iv }, stage := .tcp, cur := BitVec.ofNat 7 (ipv4Base + iv.len.toNat) }
    else { s with res := ({ s.res with ip := some iv }).endChain .notTcpProtocol, stage := .done }
  | some (.tcp (.fail e)) => { s with res := s.res.raise e, stage := .done }
  | some (.tcp (.ok tv)) => { s with res := ({ s.res with tcp := some tv }).endChain .complete, stage := .done }

/-- One operation of a spread resolution: the stage the sequencer stands at, then CHAIN_RESOLVE's taking of its result. -/
def State.chainAdvance (s : State) : Host.Outcome State Fault Refusal :=
  match s.stage with
  | .done => .next s
  | .eth =>
    match execEthResolve s with
    | .next t => .next t.chainTake
    | .fault r => .fault r
    | .refused r => .refused r
  | .ipv4 =>
    match execIpv4Resolve s with
    | .next t => .next t.chainTake
    | .fault r => .fault r
    | .refused r => .refused r
  | .tcp =>
    match execTcpResolve s with
    | .next t => .next t.chainTake
    | .fault r => .fault r
    | .refused r => .refused r

/-- `n` operations of a spread resolution. -/
def State.chainSpread : Nat → State → Host.Outcome State Fault Refusal
  | 0, s => .next s
  | n + 1, s =>
    match s.chainAdvance with
    | .next t => State.chainSpread n t
    | .fault r => .fault r
    | .refused r => .refused r

end Sys2Proof.Machine
end

