-- ==== Sys2Proof/Machine/Flags.lean ====
section
/-! DEFINITION. The single-bit outputs and codes. The block has no condition codes (R35): its flags are the presence bits of RES and the
status outputs, all functions of the registers (R16 to R18, R20, R25), and its codes are those of R23, R62 and R63. -/

namespace Sys2Proof.Machine

/-- `out_valid = (STATE = PROCESSING)` (R18). -/
def State.outValid (s : State) : Bool := decide (s.ctl = .processing)

/-- `out_res`: the whole content of RES (R17). -/
def State.outRes (s : State) : Res := s.res

/-- `stopped` (R20). -/
def State.stoppedOut (s : State) : Bool := decide (s.ctl = .stopped)

/-- `fatal` (R20). -/
def State.fatalOut (s : State) : Bool := decide (s.ctl = .halted)

/-- `src_release`: the environment is to release the capture-source handle (R20). -/
def State.srcRelease (s : State) : Bool := s.stoppedOut || s.fatalOut

/-- `fatal_cause_out` (R20). -/
def State.fatalCauseOut (s : State) : Nat := s.fatalCause

/-- `eth_ok` (R25). -/
def Res.ethOk (r : Res) : Bool := r.eth.isSome

/-- `ip_ok` (R25). -/
def Res.ipOk (r : Res) : Bool := r.ip.isSome

/-- `tcp_ok` (R25). -/
def Res.tcpOk (r : Res) : Bool := r.tcp.isSome

/-- The Ethernet view's `off` and `len` (R26). -/
def EthView.off (_ : EthView) : Nat := 0

/-- The Ethernet view's `len` (R26). -/
def EthView.len (_ : EthView) : Nat := ethHdrLen

/-- The IPv4 view's `off` (R27). -/
def IpView.off (_ : IpView) : Nat := ipv4Base

/-- The code of STATE (R23, R64). -/
def Ctl.code : Ctl → BitVec 2
  | .waiting => 0b00
  | .processing => 0b01
  | .stopped => 0b10
  | .halted => 0b11

/-- The code of `err_stage` (R63). -/
def HdrStage.code : HdrStage → BitVec 2
  | .ethernet => 0b00
  | .ipv4 => 0b01
  | .tcp => 0b10

/-- The code of `err_kind` (R63, R140). -/
def Res.errKind (r : Res) : BitVec 2 :=
  match r.err with
  | none => 0b00
  | some (.truncated _ _ _) => 0b01
  | some (.invalidLength _ _) => 0b10

/-- The code of `chain_end` (R63). -/
def ChainEnd.code : ChainEnd → BitVec 3
  | .complete => 0b000
  | .notIpv4Ethertype => 0b001
  | .notIpv4Version => 0b010
  | .notTcpProtocol => 0b011
  | .error => 0b100

/-- The identifier of a register (R22). -/
def Reg.id : Reg → Nat
  | .state => 0
  | .flen => 1
  | .res => 2
  | .fatalCause => 3

/-- Two states hold the same value in a register. -/
def Reg.same (r : Reg) (s t : State) : Prop :=
  match r with
  | .state => t.ctl = s.ctl
  | .flen => t.flen = s.flen
  | .res => t.res = s.res
  | .fatalCause => t.fatalCause = s.fatalCause

/-- The stage an error names (R29). -/
def ErrRec.stage : ErrRec → HdrStage
  | .truncated st _ _ => st
  | .invalidLength st _ => st

end Sys2Proof.Machine
end

