-- ==== Sys2Proof/Machine/Control.lean ====
section
/-! DEFINITION. The control transactions (44_capture_loop.md, R127 to R136; 70_reset_and_hazards.md, R158). Each tests the state its
pseudocode tests; the signal that selects it is what made it this operation. Where the test fails nothing is transferred and nothing
changes (R16, R134, R135; log 13). -/

namespace Sys2Proof.Machine

/-- IN_FRAME (R128): the source's bytes, FLEN, the atomic resolution (R73), and STATE becomes PROCESSING. -/
def execInFrame (len : Nat) (data : List Byte) (s : State) : Host.Outcome State Fault Refusal :=
  if s.inReady && decide (len ≤ s.cfg.maxFrameLen) then
    match execChainResolve (s.loadFrame len data) with
    | .next t => .next { t with ctl := .processing }
    | .fault r => .fault r
    | .refused r => .refused r
  else .next s

/-- IN_FRAME_OVERSIZE (R129): the mark OVERSIZE_FRAME and nothing else (log 12). -/
def execInFrameOversize (len : Nat) (s : State) : Host.Outcome State Fault Refusal :=
  if s.inReady && decide (s.cfg.maxFrameLen < len) then .next (s.addRefusal .oversizeFrame) else .next s

/-- IN_EMPTY (R130): skip; in WAITING or elsewhere no register is written. -/
def execInEmpty (s : State) : Host.Outcome State Fault Refusal := .next s

/-- IN_FATAL (R131): `CaptureFatal{cause}`. -/
def execInFatal (cause : Nat) (s : State) : Host.Outcome State Fault Refusal :=
  if s.inReady then .next (s.takeFatal cause) else .next s

/-- IN_RESERVED (R132): the mark RESERVED_IN_KIND and nothing else (log 12). -/
def execInReserved (s : State) : Host.Outcome State Fault Refusal :=
  if s.inReady then .next (s.addRefusal .reservedInKind) else .next s

/-- STOP (R127): honoured in WAITING only (R164). -/
def execStop (s : State) : Host.Outcome State Fault Refusal :=
  if s.ctl = .waiting then .next { s with ctl := .stopped } else .next s

/-- OUT_ACCEPT (R133): while `out_valid = 1` the sink takes RES. -/
def execOutAccept (s : State) : Host.Outcome State Fault Refusal :=
  if s.outValid then .next s.acceptResult else .next s

/-- RESET (R158): in every state. -/
def execReset (s : State) : Host.Outcome State Fault Refusal := .next s.resetRegisters

end Sys2Proof.Machine
end

