-- ==== Sys2Proof/Machine/Dispatch.lean ====
section
/-! DEFINITION. One arm per operation: what exec answers for it. -/

namespace Sys2Proof.Machine

def exec (i : Instr) (s : State) : Host.Outcome State Fault Refusal :=
  match i with
  | .inFrame len data => Sys2Proof.Machine.execInFrame len data s
  | .inFrameOversize len => Sys2Proof.Machine.execInFrameOversize len s
  | .inEmpty => Sys2Proof.Machine.execInEmpty s
  | .inFatal cause => Sys2Proof.Machine.execInFatal cause s
  | .inReserved => Sys2Proof.Machine.execInReserved s
  | .stop => Sys2Proof.Machine.execStop s
  | .outAccept => Sys2Proof.Machine.execOutAccept s
  | .reset => Sys2Proof.Machine.execReset s
  | .chainResolve => Sys2Proof.Machine.execChainResolve s
  | .ethResolve => Sys2Proof.Machine.execEthResolve s
  | .ipv4Resolve => Sys2Proof.Machine.execIpv4Resolve s
  | .tcpResolve => Sys2Proof.Machine.execTcpResolve s
  | .ethDst => Sys2Proof.Machine.execEthDst s
  | .ethSrc => Sys2Proof.Machine.execEthSrc s
  | .ethEthertype => Sys2Proof.Machine.execEthEthertype s
  | .ipVersion => Sys2Proof.Machine.execIpVersion s
  | .ipIhl => Sys2Proof.Machine.execIpIhl s
  | .ipLen => Sys2Proof.Machine.execIpLen s
  | .ipTos => Sys2Proof.Machine.execIpTos s
  | .ipTotalLength => Sys2Proof.Machine.execIpTotalLength s
  | .ipIdentification => Sys2Proof.Machine.execIpIdentification s
  | .ipTtl => Sys2Proof.Machine.execIpTtl s
  | .ipProtocol => Sys2Proof.Machine.execIpProtocol s
  | .ipChecksum => Sys2Proof.Machine.execIpChecksum s
  | .ipSaddr => Sys2Proof.Machine.execIpSaddr s
  | .ipDaddr => Sys2Proof.Machine.execIpDaddr s
  | .tcpSport => Sys2Proof.Machine.execTcpSport s
  | .tcpDport => Sys2Proof.Machine.execTcpDport s
  | .tcpSeq => Sys2Proof.Machine.execTcpSeq s
  | .tcpAckNum => Sys2Proof.Machine.execTcpAckNum s
  | .tcpDoff => Sys2Proof.Machine.execTcpDoff s
  | .tcpLen => Sys2Proof.Machine.execTcpLen s
  | .tcpUrg => Sys2Proof.Machine.execTcpUrg s
  | .tcpAck => Sys2Proof.Machine.execTcpAck s
  | .tcpPsh => Sys2Proof.Machine.execTcpPsh s
  | .tcpRst => Sys2Proof.Machine.execTcpRst s
  | .tcpSyn => Sys2Proof.Machine.execTcpSyn s
  | .tcpFin => Sys2Proof.Machine.execTcpFin s
  | .tcpWindow => Sys2Proof.Machine.execTcpWindow s
  | .tcpChecksum => Sys2Proof.Machine.execTcpChecksum s
  | .tcpUrgPtr => Sys2Proof.Machine.execTcpUrgPtr s

end Sys2Proof.Machine
end

