-- ==== Sys2Proof/Machine/Run.lean ====
section
/-! DEFINITION. Taking a move from the agenda: the parser's row of R125 under the levels driven, the Capture Source's write, or an
operation run from its word; and placing an operation where the next step takes it. -/

namespace Sys2Proof.Machine

/-- The parser's step under the levels now driven (R126). Where no row of R125 is selected it takes no step: every register is held
(R134, R135, R136). -/
def runLevels (s : State) : Host.Outcome State Fault Refusal :=
  match s.select with
  | none => .next s
  | some i => exec i s

/-- Run the operation whose word this is (log 10). -/
def runWord (w : List Byte) (s : State) : Host.Outcome State Fault Refusal :=
  match decode s.cfg w with
  | .ok (i, []) => exec i (s.withPinsOf i)
  | .ok (_, _ :: _) => .refused .bytesAfterOperation
  | .error why => .refused (.notAnOperation why)

/-- The state on which the parser takes a step of its own, where that is what the next move lets it do: with the levels the move drives or,
with no move left, with the levels still held (log 1). A write to FB and an operation's word are no turn of the parser. -/
def State.parserTurn (s : State) : Option State :=
  match s.agenda with
  | [] => some s
  | .levels p :: rest => some { s with agenda := rest, pins := p }
  | .fbWrite _ _ :: _ => none
  | .operation _ :: _ => none

/-- Take the next move. With no move left the environment changes nothing: the parser steps under the levels it holds (R125; log 1). -/
def takeMove (s : State) : Host.Outcome State Fault Refusal :=
  match s.agenda with
  | [] => runLevels s
  | .levels p :: rest => runLevels { s with agenda := rest, pins := p }
  | .fbWrite addr b :: rest => State.hostWrite addr b { s with agenda := rest }
  | .operation w :: rest => runWord w { s with agenda := rest }

/-- The STATE in which the signals select a boundary operation (R125): OUT_ACCEPT in PROCESSING, an input or a stop in WAITING, RESET in
any. -/
def ctlFor (i : Instr) (c : Ctl) : Ctl :=
  match i with
  | .outAccept => .processing
  | .reset => c
  | _ => .waiting

/-- Put operation `i` where the next step takes it: a boundary operation by its signals, in the STATE that selects it, another by its
word (log 11). -/
def placeOperation (s : State) (i : Instr) : State :=
  match i.levels with
  | some p => { s with agenda := .levels p :: s.agenda, ctl := ctlFor i s.ctl }
  | none => { s with agenda := .operation (encode s.cfg i) :: s.agenda }

/-- Put the operation of the table's bits where the next step takes it; bits of no operation go there as they are (log 11). -/
def placeTableWord (s : State) (nbits w : Nat) : State :=
  match decodeTableWord nbits w with
  | some i => placeOperation s i
  | none => { s with agenda := .operation (tableWordBytes nbits w) :: s.agenda }

end Sys2Proof.Machine
end

