-- ==== Sys2Proof/Safety.lean ====
section
/-! DEFINITION. What counts as a safe run, in the terms claims use: the premise of R33, the end of a run (R139),
the fairness of the sink (R138), the shape of a result (R31),
and the invariant every step keeps. -/

namespace Sys2Proof.Machine

/-- FAULTS and REFUSED are empty: the premise of a claim about the block (R33). -/
def State.marksClear (s : State) : Bool :=
  !s.faults.readBeyondFrame && !s.faults.hostFbWriteBusy && !s.refused.reservedInKind && !s.refused.oversizeFrame

/-- A run ends when STATE is STOPPED or HALTED (R139). -/
def State.ended (s : State) : Bool := s.srcRelease

/-- It ends well if in addition FAULTS and REFUSED are empty (R139). -/
def State.endedWell (s : State) : Bool := s.ended && s.marksClear

/-- An unending run: each state is the step of the one before. -/
def IsRun (run : Nat → State) : Prop := ∀ n, step (run n) = .next (run (n + 1))

/-- The weak fairness of the sink, the only liveness assumption (R138): if `out_valid` stays 1, the sink eventually raises `out_ready`, in a turn
of the parser. -/
def SinkFair (run : Nat → State) : Prop :=
  ∀ n, (∀ m, n ≤ m → (run m).outValid = true) → ∃ m u, n ≤ m ∧ (run m).parserTurn = some u ∧ u.pins.outReady = true

/-- The views a result may hold beside its error (R31). -/
def Res.errorFits (r : Res) : Bool :=
  match r.err with
  | none => true
  | some e =>
    match e.stage with
    | .ethernet => !r.ethOk
    | .ipv4 => r.ethOk && !r.ipOk
    | .tcp => r.ipOk && !r.tcpOk

/-- The shape of every result a resolution writes (R31): a view implies those before it, an error is present exactly when the chain
ended with ERROR and lies right after the last view, and the chain is COMPLETE exactly when there is a TCP view. -/
def Res.shape (r : Res) : Bool :=
  (!r.tcpOk || r.ipOk) && (!r.ipOk || r.ethOk) && (r.err.isSome == decide (r.chainEnd = .error)) && r.errorFits &&
    (decide (r.chainEnd = .complete) == r.tcpOk)

/-- What every step keeps: FB is canonical and inside its address space (R38, R40), FLEN is a length the block accepts (R24, R128),
FATAL_CAUSE fits its width (R32), the offered result is one of the current frame's length with R31's shape, and so is every result the
sink has taken. -/
def State.inv (s : State) : Bool :=
  s.fb.wf && s.fb.below s.cfg.maxFrameLen && decide (s.flen ≤ s.cfg.maxFrameLen) && decide (s.fatalCause < 2 ^ s.cfg.causeW) &&
    (!s.outValid || (s.res.shape && s.res.frameLen == s.flen)) && s.emitted.all Res.shape

end Sys2Proof.Machine
end

