-- ==== Sys2Proof/Certificates/Slice0/Obligations.lean ====
section
/-! DEFINITION. The statements put to the provers. Each docstring names the rule of spec/ it formalises; where a clause is the model's own
choice the docstring names its log entry, and where the rule is marked as a decision or a derivation of the spec it says so. -/

open Sys2Proof Sys2Proof.Machine

namespace Sys2Proof.Claims

/-- Ether-type of a frame's bytes 12 and 13 (R90). -/
def ethertypeOf (f : Frame) : BitVec 16 := f.byteAt 12 ++ f.byteAt 13

/-- IHL of a frame's byte 14 (R95). -/
def ihlOf (f : Frame) : BitVec 4 := loNibble (f.byteAt 14)

/-- Where the TCP header starts: T = 14 + ip_len (R66). -/
def tcpBase (f : Frame) : Nat := 14 + (ihlOf f).toNat * 4

/-- DOFF, the high nibble of byte T + 12 (R113). -/
def doffOf (f : Frame) : BitVec 4 := hiNibble (f.byteAt (tcpBase f + 12))

/-- When the Ethernet header is present (R51, first row). -/
def hasEth (f : Frame) : Prop := 14 ≤ f.len

/-- When the IPv4 header is present (R51, second row). -/
def hasIp (f : Frame) : Prop :=
  hasEth f ∧ ethertypeOf f = 0x0800 ∧ 15 ≤ f.len ∧ 14 + (ihlOf f).toNat * 4 ≤ f.len ∧ 5 ≤ (ihlOf f).toNat ∧
    hiNibble (f.byteAt 14) = 4

/-- When the TCP header is present (R51, third row). -/
def hasTcp (f : Frame) : Prop :=
  hasIp f ∧ f.byteAt 23 = 6 ∧ tcpBase f + 13 ≤ f.len ∧ tcpBase f + (doffOf f).toNat * 4 ≤ f.len ∧ 5 ≤ (doffOf f).toNat

/-- The error a frame reports: the first row of R144's table whose condition holds, for the stages the frame reaches (R145). -/
def errorOf (f : Frame) : Option ErrRec :=
  if f.len < 14 then some (.truncated .ethernet 14 f.len)
  else if ethertypeOf f ≠ 0x0800 then none
  else if f.len < 15 then some (.truncated .ipv4 34 f.len)
  else if (ihlOf f).toNat < 5 then some (.invalidLength .ipv4 (ihlOf f))
  else if f.len < 14 + (ihlOf f).toNat * 4 then some (.truncated .ipv4 (14 + (ihlOf f).toNat * 4) f.len)
  else if hiNibble (f.byteAt 14) ≠ 4 then none
  else if f.byteAt 23 ≠ 6 then none
  else if f.len < tcpBase f + 13 then some (.truncated .tcp (tcpBase f + 20) f.len)
  else if (doffOf f).toNat < 5 then some (.invalidLength .tcp (doffOf f))
  else if f.len < tcpBase f + (doffOf f).toNat * 4 then
    some (.truncated .tcp (tcpBase f + (doffOf f).toNat * 4) f.len)
  else none

/-- The Ethernet accessors with the frame bytes they read: first offset and count (R88 to R90). -/
def ethSpans : List (Instr × Nat × Nat) := [(.ethDst, 0, 6), (.ethSrc, 6, 6), (.ethEthertype, 12, 2)]

/-- The IPv4 accessors that read the frame, with the frame bytes they read (R94, R95, R97 to R104). -/
def ipSpans : List (Instr × Nat × Nat) :=
  [(.ipVersion, 14, 1), (.ipIhl, 14, 1), (.ipTos, 15, 1), (.ipTotalLength, 16, 2), (.ipIdentification, 18, 2), (.ipTtl, 22, 1),
    (.ipProtocol, 23, 1), (.ipChecksum, 24, 2), (.ipSaddr, 26, 4), (.ipDaddr, 30, 4)]

/-- The TCP accessors that read the frame, with the bytes they read from the header's start (R109 to R113, R115 to R123). -/
def tcpSpans : List (Instr × Nat × Nat) :=
  [(.tcpSport, 0, 2), (.tcpDport, 2, 2), (.tcpSeq, 4, 4), (.tcpAckNum, 8, 4), (.tcpDoff, 12, 1), (.tcpUrg, 13, 1), (.tcpAck, 13, 1),
    (.tcpPsh, 13, 1), (.tcpRst, 13, 1), (.tcpSyn, 13, 1), (.tcpFin, 13, 1), (.tcpWindow, 14, 2), (.tcpChecksum, 16, 2),
    (.tcpUrgPtr, 18, 2)]

/-- The control table R125: the STATE after one parser step under the levels driven. -/
def tableNext (s : State) : Ctl :=
  if s.pins.rst = true then .waiting
  else
    match s.ctl with
    | .waiting =>
      if s.pins.stopReq = true then .stopped
      else if s.pins.inValid = true ∧ s.pins.inKind = 0b00#2 ∧ s.pins.inLen ≤ s.cfg.maxFrameLen then .processing
      else if s.pins.inValid = true ∧ s.pins.inKind = 0b10#2 then .halted
      else .waiting
    | .processing => if s.pins.outReady = true then .waiting else .processing
    | .stopped => .stopped
    | .halted => .halted

/-- `PROCESS <bytes>` of R71: the levels of `FRAME <bytes>`, then those of `ACCEPT`. -/
def process (d : List Byte) : List Move :=
  [.levels { Levels.idle with inValid := true, inKind := 0b00#2, inLen := d.length, inData := d },
    .levels { Levels.idle with outReady := true }]

end Sys2Proof.Claims

open Sys2Proof.Claims

/-! ### Decoding -/

/-- Every well-formed operation is read back from its word, whatever bytes follow: no operand bit is dropped. The words carry the table's
encodings (R67) behind a format byte of the model's own (log 10). -/
def Obligations.OperationWordsRoundTrip : Prop :=
  ∀ (c : Params) (i : Instr) (rest : List Byte), i.wf c = true → decode c (encode c i ++ rest) = .ok (i, rest)

/-- Whatever the decoder accepts is a well-formed operation: its length and cause fit their signals (R9, R15) and a frame has all its
bytes (R128). -/
def Obligations.DecodedOperationsAreWellFormed : Prop :=
  ∀ (c : Params) (bs : List Byte) (i : Instr) (rest : List Byte), decode c bs = .ok (i, rest) → i.wf c = true

/-- Words written out from the table's encodings: a two-byte frame, the stage selectors 0x0800 and 6 (R76, R77), and field positions of
R59 to R61 (the format bytes: log 10). -/
def Obligations.WrittenOutWordsDecode : Prop :=
  decode Params.default [0, 0b00, 0, 0, 2, 0xAB, 0xCD] = .ok (.inFrame 2 [0xAB, 0xCD], []) ∧
  decode Params.default [5, 1, 0x08, 0x00] = .ok (.ipv4Resolve, []) ∧
  decode Params.default [5, 1, 0x00, 0x08] = .error .unknownSelector ∧
  decode Params.default [5, 2, 0x06] = .ok (.tcpResolve, []) ∧
  decode Params.default [6, 12, 2, 15, 0, 16] = .ok (.ethEthertype, []) ∧
  decode Params.default [7, 0, 1, 3, 0, 4] = .ok (.ipIhl, []) ∧
  decode Params.default [8, 12, 1, 7, 4, 4] = .ok (.tcpDoff, [])

/-- R62: `in_kind` on the input channel selects FRAME, EMPTY, FATAL or the reserved input, when an input is transferred (R15, R16); an
`in_kind = 00` above `MAX_FRAME_LEN` is the oversize frame of R129. That an offer of more or fewer bytes than `in_len` is cut at `in_len` is the
model's choice (log 15). -/
def Obligations.InKindSelectsTheInputOperation : Prop :=
  ∀ s : State, s.ctl = .waiting → s.pins.rst = false → s.pins.stopReq = false → s.pins.inValid = true →
    s.pins.inLen < 2 ^ s.cfg.lenW → s.pins.inCause < 2 ^ s.cfg.causeW →
    (s.pins.inKind = 0b00#2 → s.pins.inLen ≤ s.cfg.maxFrameLen →
      s.select = some (.inFrame s.pins.inLen (s.pins.inData.take s.pins.inLen))) ∧
    (s.pins.inKind = 0b00#2 → s.cfg.maxFrameLen < s.pins.inLen → s.select = some (.inFrameOversize s.pins.inLen)) ∧
    (s.pins.inKind = 0b01#2 → s.select = some .inEmpty) ∧
    (s.pins.inKind = 0b10#2 → s.select = some (.inFatal s.pins.inCause)) ∧
    (s.pins.inKind = 0b11#2 → s.select = some .inReserved)

/-- The signals that offer a boundary operation select it, in the STATE in which R125 has its row: the signal encodings of R67 lose
nothing. -/
def Obligations.SignalsOfAnOperationSelectIt : Prop :=
  ∀ (s : State) (i : Instr) (p : Levels), i.wf s.cfg = true → i.levels = some p → s.ctl = ctlFor i s.ctl →
    ({ s with pins := p } : State).select = some i

/-- R126: reset before every other row of R125, and in WAITING a stop before a pending input, whatever else is driven. -/
def Obligations.ResetThenStopThenInput : Prop :=
  (∀ s : State, s.pins.rst = true → s.select = some .reset) ∧
  (∀ s : State, s.pins.rst = false → s.ctl = .waiting → s.pins.stopReq = true → s.select = some .stop) ∧
  (∀ s : State, s.pins.rst = false → s.ctl = .processing → s.pins.outReady = true → s.select = some .outAccept)

/-! ### A step -/

/-- A step under driven levels is the parser's step on the state that has these levels and the move taken off the agenda, and it runs the
operation they select (R125, R126), or holds the state where they select none; with no move of the environment left the parser steps
under the levels still held (log 1). -/
def Obligations.StepRunsTheSelectedOperation : Prop :=
  (∀ (s : State) (p : Levels) (rest : List Move), s.agenda = .levels p :: rest →
    step s = runLevels { s with agenda := rest, pins := p }) ∧
  (∀ (s : State) (i : Instr), s.select = some i → runLevels s = exec i s) ∧
  (∀ s : State, s.select = none → runLevels s = .next s) ∧
  (∀ s : State, s.agenda = [] → step s = runLevels s)

/-- A step whose move is an operation's word runs that operation, on the state with the move taken off the agenda and, for a boundary
operation, its own levels driven (log 10). -/
def Obligations.StepRunsTheOperationOfAWord : Prop :=
  ∀ (s : State) (w : List Byte) (rest : List Move) (i : Instr), s.agenda = .operation w :: rest →
    decode s.cfg w = .ok (i, []) → i.wf s.cfg = true →
    step s = exec i (({ s with agenda := rest } : State).withPinsOf i)

/-- An operation placed for the next step is the one the next step runs: the decoder, the signals and the step agree for every
well-formed operation (log 10, log 11). -/
def Obligations.PlacedOperationRunsNext : Prop :=
  ∀ (s : State) (i : Instr), i.wf s.cfg = true →
    step (placeOperation s i) =
      exec i (match i.levels with
        | some p => { s with pins := p, ctl := ctlFor i s.ctl }
        | none => s)

/-- R134: while PROCESSING with `out_ready = 0` and no reset the parser takes no step, whatever `stop_req`, `in_valid` and `in_kind` are: nothing
changes, RES stays offered and no input is taken. -/
def Obligations.ResultIsHeldUntilTheSinkIsReady : Prop :=
  ∀ s : State, s.ctl = .processing → s.pins.rst = false → s.pins.outReady = false →
    runLevels s = .next s ∧ s.outValid = true ∧ s.outRes = s.res ∧ s.inReady = false

/-- R136: in WAITING with no input offered, no stop and no reset the parser waits, and every register survives unchanged. -/
def Obligations.WaitingChangesNothing : Prop :=
  ∀ s : State, s.ctl = .waiting → s.pins.rst = false → s.pins.stopReq = false → s.pins.inValid = false → runLevels s = .next s

/-! ### Control transactions -/

/-- R128: IN_FRAME in WAITING with `stop_req = 0` and L ≤ `MAX_FRAME_LEN` writes the L bytes to FB, keeps every byte at L and above, sets FLEN to
L, RES to the resolution of the frame and STATE to PROCESSING, and changes nothing else; where it leaves the sequencer is not said (R34). -/
def Obligations.InFrameLoadsAndResolves : Prop :=
  ∀ (s : State) (len : Nat) (data : List Byte), s.ctl = .waiting → s.pins.stopReq = false → len ≤ s.cfg.maxFrameLen →
    data.length = len →
    ∃ t, exec (.inFrame len data) s = .next t ∧
      (∀ i, (h : i < data.length) → t.fb.get i = some data[i]) ∧
      (∀ i, len ≤ i → t.fb.get i = s.fb.get i) ∧
      (∃ c, chainResolve { fb := t.fb, len := len } = some (t.res, c)) ∧
      t = { s with fb := t.fb, flen := len, res := t.res, ctl := .processing, stage := t.stage, cur := t.cur }

/-- R129: an oversize FRAME sets the mark OVERSIZE_FRAME and nothing else, and the block is still WAITING. That a refusal answers a next state
with its mark is the model's reading (log 12). -/
def Obligations.OversizeFrameIsMarkedRefused : Prop :=
  ∀ (s : State) (len : Nat), s.ctl = .waiting → s.pins.stopReq = false → s.cfg.maxFrameLen < len →
    ∃ t, exec (.inFrameOversize len) s = .next t ∧ t = { s with refused := { s.refused with oversizeFrame := true } } ∧
      t.ctl = .waiting ∧ t.marksClear = false

/-- R130: an EMPTY input is consumed with no register written and no result emitted, in WAITING as the input that is offered and anywhere else. -/
def Obligations.EmptyInputIsSkipped : Prop :=
  (∀ s : State, exec .inEmpty s = .next s) ∧
  (∀ s : State, s.ctl = .waiting → s.pins.rst = false → s.pins.stopReq = false → s.pins.inValid = true → s.pins.inKind = 0b01#2 →
    runLevels s = .next s)

/-- R131: a FATAL input latches its cause, STATE becomes HALTED with `fatal` and `src_release`, RES is left and nothing is emitted. -/
def Obligations.FatalInputHalts : Prop :=
  ∀ (s : State) (cause : Nat), s.ctl = .waiting → s.pins.stopReq = false →
    ∃ t, exec (.inFatal cause) s = .next t ∧ t = { s with fatalCause := cause, ctl := .halted } ∧
      t.fatalOut = true ∧ t.srcRelease = true ∧ t.fatalCauseOut = cause

/-- R132: a transfer with `in_kind = 11` sets the mark RESERVED_IN_KIND and nothing else. That a refusal answers a next state with its mark is
the model's reading (log 12). -/
def Obligations.ReservedInputIsMarkedRefused : Prop :=
  ∀ s : State, s.ctl = .waiting → s.pins.stopReq = false →
    ∃ t, exec .inReserved s = .next t ∧ t = { s with refused := { s.refused with reservedInKind := true } } ∧ t.marksClear = false

/-- R127: STOP in WAITING enters STOPPED with `src_release` and leaves a pending input untransferred; raised while PROCESSING it has no
effect. -/
def Obligations.StopIsHonouredInWaitingOnly : Prop :=
  (∀ s : State, s.ctl = .waiting →
    ∃ t, exec .stop s = .next t ∧ t = { s with ctl := .stopped } ∧ t.srcRelease = true) ∧
  (∀ s : State, s.ctl = .processing → exec .stop s = .next s) ∧
  (∀ s : State, s.ctl = .waiting → s.pins.rst = false → s.pins.stopReq = true → runLevels s = .next { s with ctl := .stopped })

/-- R133: while `out_valid = 1` the sink's acceptance returns STATE to WAITING; RES keeps its value and is no longer offered. Of the model's own
list of results taken nothing is said here. -/
def Obligations.AcceptanceReturnsToWaiting : Prop :=
  ∀ s : State, s.ctl = .processing →
    ∃ t, exec .outAccept s = .next t ∧ t = { s with ctl := .waiting, emitted := t.emitted } ∧ t.outValid = false

/-- R158, with R37: RESET in every state sets STATE to WAITING, FLEN and FATAL_CAUSE to 0 and the views and the error of RES to absent; FB, FAULTS
and REFUSED are kept. That the parameters are kept is log 3, that the list of results taken is kept is log 17, and that the environment's
side is kept is log 1: the model's choices. Nothing is said of what R37 leaves unspecified (log 5). -/
def Obligations.ResetRestoresTheRegisters : Prop :=
  ∀ s : State, ∃ t, exec .reset s = .next t ∧
    t.ctl = .waiting ∧ t.flen = 0 ∧ t.fatalCause = 0 ∧
    t.res.eth = none ∧ t.res.ip = none ∧ t.res.tcp = none ∧ t.res.err = none ∧ t.outValid = false ∧
    t.fb = s.fb ∧ t.faults = s.faults ∧ t.refused = s.refused ∧ t.cfg = s.cfg ∧ t.pins = s.pins ∧ t.agenda = s.agenda ∧
    t.emitted = s.emitted

/-- R16: `in_ready` holds exactly in WAITING with `stop_req = 0`; where it does not hold, no input is transferred. -/
def Obligations.InputsNeedInReady : Prop :=
  ∀ s : State, (s.inReady = true ↔ (s.ctl = .waiting ∧ s.pins.stopReq = false)) ∧
    (s.inReady = false →
      (∀ len data, exec (.inFrame len data) s = .next s) ∧ (∀ len, exec (.inFrameOversize len) s = .next s) ∧
      exec .inEmpty s = .next s ∧ (∀ cause, exec (.inFatal cause) s = .next s) ∧ exec .inReserved s = .next s)

/-- R135: in STOPPED and HALTED no operation but RESET changes anything, and without reset the parser takes no step; these are the states
in which a run has ended (R139). -/
def Obligations.TerminalStatesKeepEverything : Prop :=
  ∀ s : State, (s.ended = true ↔ (s.ctl = .stopped ∨ s.ctl = .halted)) ∧
    (s.ended = true → (∀ i : Instr, i ≠ .reset → exec i s = .next s) ∧
      (s.pins.rst = false → s.select = none ∧ runLevels s = .next s ∧ s.inReady = false ∧ s.outValid = false))

/-- The control table R125, every row, reset first (R126): the parser's step under the levels driven always answers a next state, and its
STATE is the table's `to` column for the row whose condition holds. That the two refused rows answer a next state is the model's reading
(log 12). `in_len` is a value its `LEN_W` signal can carry (R15). -/
def Obligations.ControlTakesTheRowOfTheTable : Prop :=
  ∀ s : State, s.pins.inLen < 2 ^ s.cfg.lenW → ∃ t, runLevels s = .next t ∧ t.ctl = tableNext s

/-- No step leaves the control table R125, whatever the move: a step that changes STATE takes one of its rows, under the levels that row
requires. In particular a stop never ends a run from PROCESSING (R164) and only reset leaves a terminal state (R135). -/
def Obligations.StateChangesOnlyByTheTable : Prop :=
  ∀ s t : State, step s = .next t →
    t.ctl = s.ctl ∨
    (t.pins.rst = true ∧ t.ctl = .waiting) ∨
    (s.ctl = .waiting ∧ t.ctl = .stopped ∧ t.pins.stopReq = true) ∨
    (s.ctl = .waiting ∧ t.ctl = .processing ∧ t.pins.stopReq = false ∧ t.pins.inValid = true ∧ t.pins.inKind = 0b00#2 ∧
      t.flen ≤ t.cfg.maxFrameLen) ∨
    (s.ctl = .waiting ∧ t.ctl = .halted ∧ t.pins.stopReq = false ∧ t.pins.inValid = true ∧ t.pins.inKind = 0b10#2) ∨
    (s.ctl = .processing ∧ t.ctl = .waiting ∧ t.pins.outReady = true)

/-- The environment's write to FB (R43, marked derived and decided in the spec, D22): while PROCESSING it is the fault HOST_FB_WRITE_BUSY, the
write is applied and RES is unchanged; in any other state it is no fault. One byte changes and nothing else. -/
def Obligations.HostWriteWhileProcessingIsAFault : Prop :=
  ∀ (s : State) (a : Nat) (b : Byte) (rest : List Move), s.agenda = .fbWrite a b :: rest → a < s.cfg.maxFrameLen →
    ∃ t, step s = .next t ∧ t.fb.get a = some b ∧ (∀ i, i ≠ a → t.fb.get i = s.fb.get i) ∧
      (s.ctl = .processing →
        t = { s with agenda := rest, fb := t.fb, faults := { s.faults with hostFbWriteBusy := true } }) ∧
      (s.ctl ≠ .processing → t = { s with agenda := rest, fb := t.fb })

/-- An environment write at an address FB does not have (R38) stops the model with `noSuchAddress`; the stop is the model's choice (log 16). -/
def Obligations.HostWriteOutsideTheBufferStops : Prop :=
  ∀ (s : State) (a : Nat) (b : Byte) (rest : List Move), s.agenda = .fbWrite a b :: rest → s.cfg.maxFrameLen ≤ a →
    step s = .fault .noSuchAddress

/-! ### The stages and the chain -/

/-- R86: ETH_RESOLVE returns `TruncatedHeader{ETHERNET, 14, L}` exactly when L < 14 and otherwise the view over bytes 0 to 13; no register is
written (what it returns is held in the model's `ret`, with the sequencer: log 9). -/
def Obligations.EthResolveReturnsItsView : Prop :=
  ∀ s : State, s.running = true →
    exec .ethResolve s = .next { s with
      stage := .eth
      cur := 0
      ret := some (.eth (
        if s.flen < 14 then .fail (.truncated .ethernet 14 s.flen)
        else .ok {
          dst := s.frame.byteAt 0 ++ s.frame.byteAt 1 ++ s.frame.byteAt 2 ++ s.frame.byteAt 3 ++ s.frame.byteAt 4 ++ s.frame.byteAt 5
          src := s.frame.byteAt 6 ++ s.frame.byteAt 7 ++ s.frame.byteAt 8 ++ s.frame.byteAt 9 ++ s.frame.byteAt 10 ++
            s.frame.byteAt 11
          ethertype := s.frame.byteAt 12 ++ s.frame.byteAt 13 })) }

/-- R91: IPV4_RESOLVE, selected by a present Ethernet view with ether-type 0x0800, tests the presence of the IHL byte, IHL ≥ 5, the presence
of 14 + IHL × 4 bytes and version 4, in this order, and returns the view, the error or Skip; no register is written (log 9). -/
def Obligations.Ipv4ResolveReturnsItsView : Prop :=
  ∀ (s : State) (ev : EthView), s.running = true → s.res.eth = some ev → ev.ethertype = 0x0800 →
    exec .ipv4Resolve s = .next { s with
      stage := .ipv4
      cur := 14
      ret := some (.ip (
        if s.flen < 15 then .fail (.truncated .ipv4 34 s.flen)
        else if (loNibble (s.frame.byteAt 14)).toNat < 5 then .fail (.invalidLength .ipv4 (loNibble (s.frame.byteAt 14)))
        else if s.flen < 14 + (loNibble (s.frame.byteAt 14)).toNat * 4 then
          .fail (.truncated .ipv4 (14 + (loNibble (s.frame.byteAt 14)).toNat * 4) s.flen)
        else if hiNibble (s.frame.byteAt 14) ≠ 4 then .skip
        else .ok {
          len := BitVec.ofNat 6 ((loNibble (s.frame.byteAt 14)).toNat * 4)
          version := hiNibble (s.frame.byteAt 14)
          ihl := loNibble (s.frame.byteAt 14)
          tos := s.frame.byteAt 15
          totalLength := s.frame.byteAt 16 ++ s.frame.byteAt 17
          identification := s.frame.byteAt 18 ++ s.frame.byteAt 19
          ttl := s.frame.byteAt 22
          protocol := s.frame.byteAt 23
          checksum := s.frame.byteAt 24 ++ s.frame.byteAt 25
          saddr := s.frame.byteAt 26 ++ s.frame.byteAt 27 ++ s.frame.byteAt 28 ++ s.frame.byteAt 29
          daddr := s.frame.byteAt 30 ++ s.frame.byteAt 31 ++ s.frame.byteAt 32 ++ s.frame.byteAt 33 })) }

/-- R106: TCP_RESOLVE, selected by a present IPv4 view with protocol 6, tests the presence of the DOFF byte, DOFF ≥ 5 and the presence of
DOFF × 4 bytes from T = 14 + ip_len, in this order, and returns the view or the error; no register is written (log 9). -/
def Obligations.TcpResolveReturnsItsView : Prop :=
  ∀ (s : State) (iv : IpView) (t : Nat), s.running = true → s.res.ip = some iv → iv.protocol = 6 → t = 14 + iv.len.toNat →
    exec .tcpResolve s = .next { s with
      stage := .tcp
      cur := BitVec.ofNat 7 t
      ret := some (.tcp (
        if s.flen < t + 13 then .fail (.truncated .tcp (t + 20) s.flen)
        else if (hiNibble (s.frame.byteAt (t + 12))).toNat < 5 then
          .fail (.invalidLength .tcp (hiNibble (s.frame.byteAt (t + 12))))
        else if s.flen < t + (hiNibble (s.frame.byteAt (t + 12))).toNat * 4 then
          .fail (.truncated .tcp (t + (hiNibble (s.frame.byteAt (t + 12))).toNat * 4) s.flen)
        else .ok {
          off := BitVec.ofNat 7 t
          len := BitVec.ofNat 6 ((hiNibble (s.frame.byteAt (t + 12))).toNat * 4)
          sport := s.frame.byteAt t ++ s.frame.byteAt (t + 1)
          dport := s.frame.byteAt (t + 2) ++ s.frame.byteAt (t + 3)
          seq := s.frame.byteAt (t + 4) ++ s.frame.byteAt (t + 5) ++ s.frame.byteAt (t + 6) ++ s.frame.byteAt (t + 7)
          ackNum := s.frame.byteAt (t + 8) ++ s.frame.byteAt (t + 9) ++ s.frame.byteAt (t + 10) ++ s.frame.byteAt (t + 11)
          doff := hiNibble (s.frame.byteAt (t + 12))
          urg := (s.frame.byteAt (t + 13)).getLsbD 5
          ack := (s.frame.byteAt (t + 13)).getLsbD 4
          psh := (s.frame.byteAt (t + 13)).getLsbD 3
          rst := (s.frame.byteAt (t + 13)).getLsbD 2
          syn := (s.frame.byteAt (t + 13)).getLsbD 1
          fin := (s.frame.byteAt (t + 13)).getLsbD 0
          window := s.frame.byteAt (t + 14) ++ s.frame.byteAt (t + 15)
          checksum := s.frame.byteAt (t + 16) ++ s.frame.byteAt (t + 17)
          urgPtr := s.frame.byteAt (t + 18) ++ s.frame.byteAt (t + 19) })) }

/-- R72: CHAIN_RESOLVE writes the whole of RES and nothing else but the sequencer, of which nothing is said (R34): RES is what the pseudocode's
composition of the three stages gives, stage by stage. -/
def Obligations.ChainResolveComposesTheStages : Prop :=
  ∀ s : State, s.running = true →
    ∃ r st c, exec .chainResolve s = .next { s with res := r, stage := st, cur := c } ∧
      (∀ e, ethStage s.frame = some (.fail e) →
        r = { frameLen := s.flen, eth := none, ip := none, tcp := none, err := some e, chainEnd := .error }) ∧
      (∀ ev, ethStage s.frame = some (.ok ev) → ev.ethertype ≠ 0x0800 →
        r = { frameLen := s.flen, eth := some ev, ip := none, tcp := none, err := none, chainEnd := .notIpv4Ethertype }) ∧
      (∀ ev e, ethStage s.frame = some (.ok ev) → ev.ethertype = 0x0800 → ipv4Stage s.frame = some (.fail e) →
        r = { frameLen := s.flen, eth := some ev, ip := none, tcp := none, err := some e, chainEnd := .error }) ∧
      (∀ ev, ethStage s.frame = some (.ok ev) → ev.ethertype = 0x0800 → ipv4Stage s.frame = some .skip →
        r = { frameLen := s.flen, eth := some ev, ip := none, tcp := none, err := none, chainEnd := .notIpv4Version }) ∧
      (∀ ev iv, ethStage s.frame = some (.ok ev) → ev.ethertype = 0x0800 → ipv4Stage s.frame = some (.ok iv) → iv.protocol ≠ 6 →
        r = { frameLen := s.flen, eth := some ev, ip := some iv, tcp := none, err := none, chainEnd := .notTcpProtocol }) ∧
      (∀ ev iv e, ethStage s.frame = some (.ok ev) → ev.ethertype = 0x0800 → ipv4Stage s.frame = some (.ok iv) →
        iv.protocol = 6 → tcpStage s.frame (14 + iv.len.toNat) = some (.fail e) →
        r = { frameLen := s.flen, eth := some ev, ip := some iv, tcp := none, err := some e, chainEnd := .error }) ∧
      (∀ ev iv tv, ethStage s.frame = some (.ok ev) → ev.ethertype = 0x0800 → ipv4Stage s.frame = some (.ok iv) →
        iv.protocol = 6 → tcpStage s.frame (14 + iv.len.toNat) = some (.ok tv) →
        r = { frameLen := s.flen, eth := some ev, ip := some iv, tcp := some tv, err := none, chainEnd := .complete })

/-- R144 and R145 (the table is marked derived in the spec): the error a resolution records is the first row whose condition holds, and
there is none where no row holds. -/
def Obligations.ErrorsFollowTheTable : Prop :=
  ∀ (f : Frame) (r : Res) (c : BitVec 7), chainResolve f = some (r, c) → r.err = errorOf f

/-- R51: the three header regions are present exactly when its table says, and each view lies in its region of the frame. -/
def Obligations.HeaderRegionsOfAFrame : Prop :=
  ∀ (f : Frame) (r : Res) (c : BitVec 7), chainResolve f = some (r, c) →
    (r.eth.isSome = true ↔ hasEth f) ∧ (r.ip.isSome = true ↔ hasIp f) ∧ (r.tcp.isSome = true ↔ hasTcp f) ∧
    (∀ v, r.eth = some v → v.off = 0 ∧ v.len = 14 ∧ v.off + v.len ≤ f.len) ∧
    (∀ v, r.ip = some v → v.off = 14 ∧ v.len.toNat = v.ihl.toNat * 4 ∧ 20 ≤ v.len.toNat ∧ v.len.toNat ≤ 60 ∧
      v.off + v.len.toNat ≤ f.len) ∧
    (∀ v w, r.ip = some v → r.tcp = some w → w.off.toNat = 14 + v.len.toNat ∧ w.len.toNat = w.doff.toNat * 4 ∧
      20 ≤ w.len.toNat ∧ w.len.toNat ≤ 60 ∧ w.off.toNat + w.len.toNat ≤ f.len)

/-- R31 (marked derived in the spec): the shape of every RES a resolution writes. -/
def Obligations.ResultsHaveTheirShape : Prop :=
  ∀ (f : Frame) (r : Res) (c : BitVec 7), chainResolve f = some (r, c) →
    (r.tcpOk = true → r.ipOk = true) ∧ (r.ipOk = true → r.ethOk = true) ∧
    (r.errKind ≠ 0b00 ↔ r.chainEnd = .error) ∧
    (∀ e, r.err = some e → e.stage = .ethernet → r.ethOk = false) ∧
    (∀ e, r.err = some e → e.stage = .ipv4 → r.ethOk = true ∧ r.ipOk = false) ∧
    (∀ e, r.err = some e → e.stage = .tcp → r.ipOk = true ∧ r.tcpOk = false) ∧
    (r.chainEnd = .complete ↔ r.tcpOk = true) ∧ r.frameLen = f.len

/-- R85 (marked derived in the spec): the ranges of the resolver's quantities; a truncation's expected length is above the actual one (R144).
Where a resolution leaves the cursor is the model's (log 8). -/
def Obligations.ResolverQuantitiesStayInRange : Prop :=
  ∀ (f : Frame) (r : Res) (c : BitVec 7), chainResolve f = some (r, c) →
    c.toNat ≤ 74 ∧
    (∀ v, r.ip = some v → 4 ∣ v.len.toNat ∧ 34 ≤ 14 + v.len.toNat ∧ 14 + v.len.toNat ≤ 74) ∧
    (∀ v, r.tcp = some v → 4 ∣ v.len.toNat ∧ 54 ≤ v.off.toNat + v.len.toNat ∧ v.off.toNat + v.len.toNat ≤ 134) ∧
    (∀ n a, r.err = some (.truncated .ethernet n a) → n = 14 ∧ a = f.len ∧ a < n) ∧
    (∀ n a, r.err = some (.truncated .ipv4 n a) → 34 ≤ n ∧ n ≤ 74 ∧ a = f.len ∧ a < n) ∧
    (∀ n a, r.err = some (.truncated .tcp n a) → 54 ≤ n ∧ n ≤ 134 ∧ a = f.len ∧ a < n) ∧
    (∀ st w, r.err = some (.invalidLength st w) → st ≠ .ethernet ∧ w.toNat < 5)

/-- R84 (marked derived in the spec): no resolution reads beyond the frame: it always yields a RES, and neither CHAIN_RESOLVE, an IN_FRAME nor
a stage records a fault. -/
def Obligations.ResolutionsReadInsideTheFrame : Prop :=
  (∀ f : Frame, ∃ r c, chainResolve f = some (r, c)) ∧
  (∀ (s t : State) (i : Instr), (i = .chainResolve ∨ i = .ethResolve ∨ i = .ipv4Resolve ∨ i = .tcpResolve ∨
      ∃ len data, i = .inFrame len data) → exec i s = .next t → t.faults = s.faults)

/-- R82 and R83 (marked derived in the spec): the resolution is a function of L and the bytes below L; stale and unwritten bytes at L and
above do not matter. -/
def Obligations.ResolutionIgnoresBytesBeyondTheFrame : Prop :=
  ∀ f g : Frame, f.len = g.len → (∀ i, i < f.len → f.byteAt i = g.byteAt i) → chainResolve f = chainResolve g

/-- R73: a resolution spread over its stage operations produces the RES of the atomic one. That it ends at DONE with the atomic one's cursor
is the model's (log 8), and everything but the returned value it passed on (log 9) is the same. -/
def Obligations.SpreadResolutionAgreesWithTheAtomicOne : Prop :=
  ∀ s : State, s.running = true →
    ∃ t u, exec .chainResolve s = .next t ∧ State.chainSpread 3 s.chainStart = .next u ∧ u.stage = .done ∧
      u = { t with ret := u.ret }

/-! ### The accessors -/

/-- R88, R89, R90: on a present Ethernet view each accessor writes its own field from its own frame bytes, the lowest offset most
significant, and nothing else. -/
def Obligations.EthernetAccessorsReadTheirBytes : Prop :=
  ∀ (s : State) (v : EthView), s.running = true → s.res.eth = some v → 14 ≤ s.flen →
    exec .ethDst s = .next { s with res := { s.res with eth := some { v with
      dst := s.frame.byteAt 0 ++ s.frame.byteAt 1 ++ s.frame.byteAt 2 ++ s.frame.byteAt 3 ++ s.frame.byteAt 4 ++
        s.frame.byteAt 5 } } } ∧
    exec .ethSrc s = .next { s with res := { s.res with eth := some { v with
      src := s.frame.byteAt 6 ++ s.frame.byteAt 7 ++ s.frame.byteAt 8 ++ s.frame.byteAt 9 ++ s.frame.byteAt 10 ++
        s.frame.byteAt 11 } } } ∧
    exec .ethEthertype s = .next { s with res := { s.res with eth := some { v with
      ethertype := s.frame.byteAt 12 ++ s.frame.byteAt 13 } } }

/-- R94, R95, R97 to R104: on a present IPv4 view each accessor writes its own field from its own frame bytes, and nothing else. -/
def Obligations.Ipv4AccessorsReadTheirBytes : Prop :=
  ∀ (s : State) (v : IpView), s.running = true → s.res.ip = some v → 34 ≤ s.flen →
    exec .ipVersion s = .next { s with res := { s.res with ip := some { v with version := hiNibble (s.frame.byteAt 14) } } } ∧
    exec .ipIhl s = .next { s with res := { s.res with ip := some { v with ihl := loNibble (s.frame.byteAt 14) } } } ∧
    exec .ipTos s = .next { s with res := { s.res with ip := some { v with tos := s.frame.byteAt 15 } } } ∧
    exec .ipTotalLength s = .next { s with res := { s.res with ip := some { v with
      totalLength := s.frame.byteAt 16 ++ s.frame.byteAt 17 } } } ∧
    exec .ipIdentification s = .next { s with res := { s.res with ip := some { v with
      identification := s.frame.byteAt 18 ++ s.frame.byteAt 19 } } } ∧
    exec .ipTtl s = .next { s with res := { s.res with ip := some { v with ttl := s.frame.byteAt 22 } } } ∧
    exec .ipProtocol s = .next { s with res := { s.res with ip := some { v with protocol := s.frame.byteAt 23 } } } ∧
    exec .ipChecksum s = .next { s with res := { s.res with ip := some { v with
      checksum := s.frame.byteAt 24 ++ s.frame.byteAt 25 } } } ∧
    exec .ipSaddr s = .next { s with res := { s.res with ip := some { v with
      saddr := s.frame.byteAt 26 ++ s.frame.byteAt 27 ++ s.frame.byteAt 28 ++ s.frame.byteAt 29 } } } ∧
    exec .ipDaddr s = .next { s with res := { s.res with ip := some { v with
      daddr := s.frame.byteAt 30 ++ s.frame.byteAt 31 ++ s.frame.byteAt 32 ++ s.frame.byteAt 33 } } }

/-- R96: IP.LEN writes IHL × 4 to `ip.len`, which holds it without loss. -/
def Obligations.IpLenIsFourTimesIhl : Prop :=
  ∀ (s : State) (v : IpView), s.running = true → s.res.ip = some v →
    ∃ l : BitVec 6, exec .ipLen s = .next { s with res := { s.res with ip := some { v with len := l } } } ∧
      l.toNat = v.ihl.toNat * 4

/-- R109 to R113 and R121 to R123: on a present TCP view that starts at T = 14 + ip_len (R28), inside the frame, each accessor writes its own
field from its own frame bytes, and nothing else. -/
def Obligations.TcpAccessorsReadTheirBytes : Prop :=
  ∀ (s : State) (iv : IpView) (v : TcpView) (t : Nat), s.running = true → s.res.ip = some iv → s.res.tcp = some v →
    t = 14 + iv.len.toNat → v.off.toNat = t → t + 20 ≤ s.flen →
    exec .tcpSport s = .next { s with res := { s.res with tcp := some { v with
      sport := s.frame.byteAt t ++ s.frame.byteAt (t + 1) } } } ∧
    exec .tcpDport s = .next { s with res := { s.res with tcp := some { v with
      dport := s.frame.byteAt (t + 2) ++ s.frame.byteAt (t + 3) } } } ∧
    exec .tcpSeq s = .next { s with res := { s.res with tcp := some { v with
      seq := s.frame.byteAt (t + 4) ++ s.frame.byteAt (t + 5) ++ s.frame.byteAt (t + 6) ++ s.frame.byteAt (t + 7) } } } ∧
    exec .tcpAckNum s = .next { s with res := { s.res with tcp := some { v with
      ackNum := s.frame.byteAt (t + 8) ++ s.frame.byteAt (t + 9) ++ s.frame.byteAt (t + 10) ++ s.frame.byteAt (t + 11) } } } ∧
    exec .tcpDoff s = .next { s with res := { s.res with tcp := some { v with doff := hiNibble (s.frame.byteAt (t + 12)) } } } ∧
    exec .tcpWindow s = .next { s with res := { s.res with tcp := some { v with
      window := s.frame.byteAt (t + 14) ++ s.frame.byteAt (t + 15) } } } ∧
    exec .tcpChecksum s = .next { s with res := { s.res with tcp := some { v with
      checksum := s.frame.byteAt (t + 16) ++ s.frame.byteAt (t + 17) } } } ∧
    exec .tcpUrgPtr s = .next { s with res := { s.res with tcp := some { v with
      urgPtr := s.frame.byteAt (t + 18) ++ s.frame.byteAt (t + 19) } } }

/-- R114: TCP.LEN writes DOFF × 4 to `tcp.len`, which holds it without loss. -/
def Obligations.TcpLenIsFourTimesDoff : Prop :=
  ∀ (s : State) (v : TcpView), s.running = true → s.res.tcp = some v →
    ∃ l : BitVec 6, exec .tcpLen s = .next { s with res := { s.res with tcp := some { v with len := l } } } ∧
      l.toNat = v.doff.toNat * 4

/-- R115 to R120: each flag accessor copies its own bit of byte T + 13, URG 5 down to FIN 0, and writes nothing else. -/
def Obligations.TcpFlagsAreBitsOfByteThirteen : Prop :=
  ∀ (s : State) (iv : IpView) (v : TcpView) (t : Nat) (b : Byte), s.running = true → s.res.ip = some iv → s.res.tcp = some v →
    t = 14 + iv.len.toNat → v.off.toNat = t → t + 14 ≤ s.flen → b = s.frame.byteAt (t + 13) →
    exec .tcpUrg s = .next { s with res := { s.res with tcp := some { v with urg := decide (b.toNat / 32 % 2 = 1) } } } ∧
    exec .tcpAck s = .next { s with res := { s.res with tcp := some { v with ack := decide (b.toNat / 16 % 2 = 1) } } } ∧
    exec .tcpPsh s = .next { s with res := { s.res with tcp := some { v with psh := decide (b.toNat / 8 % 2 = 1) } } } ∧
    exec .tcpRst s = .next { s with res := { s.res with tcp := some { v with rst := decide (b.toNat / 4 % 2 = 1) } } } ∧
    exec .tcpSyn s = .next { s with res := { s.res with tcp := some { v with syn := decide (b.toNat / 2 % 2 = 1) } } } ∧
    exec .tcpFin s = .next { s with res := { s.res with tcp := some { v with fin := decide (b.toNat % 2 = 1) } } }

/-- R65: whole-byte fields are the unsigned big-endian value of their bytes; a nibble is `FB[o][7:4]` or `FB[o][3:0]`; a flag is one bit. -/
def Obligations.FieldsAreAssembledBigEndian : Prop :=
  ∀ (f : Frame) (a : Nat),
    (a + 1 ≤ f.len → ∃ v, f.read1 a = some v ∧ v.toNat = (f.byteAt a).toNat) ∧
    (a + 2 ≤ f.len → ∃ v, f.read2 a = some v ∧ v.toNat = (f.byteAt a).toNat * 256 + (f.byteAt (a + 1)).toNat) ∧
    (a + 4 ≤ f.len → ∃ v, f.read4 a = some v ∧ v.toNat =
      (((f.byteAt a).toNat * 256 + (f.byteAt (a + 1)).toNat) * 256 + (f.byteAt (a + 2)).toNat) * 256 +
        (f.byteAt (a + 3)).toNat) ∧
    (a + 6 ≤ f.len → ∃ v, f.read6 a = some v ∧ v.toNat =
      (((((f.byteAt a).toNat * 256 + (f.byteAt (a + 1)).toNat) * 256 + (f.byteAt (a + 2)).toNat) * 256 +
        (f.byteAt (a + 3)).toNat) * 256 + (f.byteAt (a + 4)).toNat) * 256 + (f.byteAt (a + 5)).toNat) ∧
    (hiNibble (f.byteAt a)).toNat = (f.byteAt a).toNat / 16 ∧ (loNibble (f.byteAt a)).toNat = (f.byteAt a).toNat % 16 ∧
    (∀ k, k < 8 → a + 14 ≤ f.len → fieldTcpFlag k f a = some (decide ((f.byteAt (a + 13)).toNat / 2 ^ k % 2 = 1)))

/-- R41: a parser read beyond FLEN yields no value and records READ_BEYOND_FRAME, whether or not FB holds a stale byte there: an accessor of
a present view whose bytes are not all below FLEN changes FAULTS and nothing else (the machine goes on: log 12, log 14). -/
def Obligations.ReadsBeyondTheFrameAreFaults : Prop :=
  ∀ s : State, s.running = true →
    (∀ v, s.res.eth = some v → ∀ p ∈ ethSpans, s.flen < p.2.1 + p.2.2 →
      exec p.1 s = .next { s with faults := { s.faults with readBeyondFrame := true } }) ∧
    (∀ v, s.res.ip = some v → ∀ p ∈ ipSpans, s.flen < p.2.1 + p.2.2 →
      exec p.1 s = .next { s with faults := { s.faults with readBeyondFrame := true } }) ∧
    (∀ v, s.res.tcp = some v → ∀ p ∈ tcpSpans, s.flen < v.off.toNat + p.2.1 + p.2.2 →
      exec p.1 s = .next { s with faults := { s.faults with readBeyondFrame := true } })

/-- An operation whose condition the spec gives and which does not hold changes nothing (log 13): a stage its selector does not select is not
run (R76, R77), and an accessor of an absent view leaves it absent (R25). -/
def Obligations.OperationsOutsideTheirConditionDoNothing : Prop :=
  ∀ s : State,
    ((∀ ev, s.res.eth = some ev → ev.ethertype ≠ 0x0800) → exec .ipv4Resolve s = .next s) ∧
    ((∀ iv, s.res.ip = some iv → iv.protocol ≠ 6) → exec .tcpResolve s = .next s) ∧
    (s.res.eth = none → ∀ p ∈ ethSpans, exec p.1 s = .next s) ∧
    (s.res.ip = none → ∀ p ∈ (Instr.ipLen, 0, 0) :: ipSpans, exec p.1 s = .next s) ∧
    (s.res.tcp = none → ∀ p ∈ (Instr.tcpLen, 0, 0) :: tcpSpans, exec p.1 s = .next s)

/-- Reads are idempotent (R49) and a resolved view holds what its accessors read (R74): where RES is the resolution of the current frame, no
accessor changes anything. -/
def Obligations.AccessorsAgreeWithTheResolvedViews : Prop :=
  ∀ (s : State) (c : BitVec 7), s.running = true → chainResolve s.frame = some (s.res, c) →
    ∀ i ∈ accessors, exec i s = .next s

/-! ### Whole-machine rules -/

/-- Every step keeps the invariant, from every state that meets it: FB canonical and inside its address space, FLEN an accepted length,
FATAL_CAUSE within its width, and the offered and the emitted results of R31's shape. -/
def Obligations.EveryStepKeepsTheInvariant : Prop := ∀ s t : State, s.inv = true → step s = .next t → t.inv = true

/-- The state after reset meets the invariant. -/
def Obligations.ResetMeetsTheInvariant : Prop := State.reset.inv = true

/-- R37 and R159, for the state after reset: WAITING with FLEN and FATAL_CAUSE 0, no view, no error, FB never written, no mark, `in_ready` and
no other output. The parts R37 leaves unspecified are not mentioned (log 6). -/
def Obligations.StateAfterReset : Prop :=
  State.reset.ctl = .waiting ∧ State.reset.flen = 0 ∧ State.reset.fatalCause = 0 ∧ State.reset.res.eth = none ∧
  State.reset.res.ip = none ∧ State.reset.res.tcp = none ∧ State.reset.res.err = none ∧ (∀ i, State.reset.fb.get i = none) ∧
  State.reset.marksClear = true ∧ State.reset.inReady = !State.reset.pins.stopReq ∧ State.reset.outValid = false ∧
  State.reset.stoppedOut = false ∧ State.reset.fatalOut = false ∧ State.reset.srcRelease = false

/-- R33: FAULTS and REFUSED are empty at the start of a run and no step takes a reason out of them, a reset included (R151, R152). -/
def Obligations.MarksAreNeverRemoved : Prop :=
  State.reset.marksClear = true ∧
  ∀ s t : State, step s = .next t →
    (s.faults.readBeyondFrame = true → t.faults.readBeyondFrame = true) ∧
    (s.faults.hostFbWriteBusy = true → t.faults.hostFbWriteBusy = true) ∧
    (s.refused.reservedInKind = true → t.refused.reservedInKind = true) ∧
    (s.refused.oversizeFrame = true → t.refused.oversizeFrame = true)

/-- The parameters of R9: no step changes them (log 3), and `LEN_W` is the smallest w with 2^w > `MAX_FRAME_LEN`; 17 for the default. -/
def Obligations.ParametersAreFixed : Prop :=
  (∀ s t : State, step s = .next t → t.cfg = s.cfg) ∧
  (∀ c : Params, c.maxFrameLen < 2 ^ c.lenW ∧ ∀ w, c.maxFrameLen < 2 ^ w → c.lenW ≤ w) ∧ Params.default.lenW = 17

/-- R42: the parser never writes FB: no operation but the FRAME transfer, whose bytes the Capture Source writes (R128), changes a byte. -/
def Obligations.ParserNeverWritesTheFrameBuffer : Prop :=
  ∀ (s t : State) (i : Instr), (∀ len data, i ≠ .inFrame len data) → exec i s = .next t → ∀ a, t.fb.get a = s.fb.get a

/-- R43, first half (marked derived in the spec): while a result is pending and the Capture Source keeps off FB, the frame and FLEN stand
still, and under driven levels RES does too (an operation run from its word may re-read a field: log 10). -/
def Obligations.PendingFrameStandsStill : Prop :=
  ∀ s t : State, s.ctl = .processing → t.ctl = .processing → step s = .next t →
    (∀ a b rest, s.agenda ≠ .fbWrite a b :: rest) →
    t.fb = s.fb ∧ t.flen = s.flen ∧ ((∀ w rest, s.agenda ≠ .operation w :: rest) → t.res = s.res)

/-- R22, R143: which operations write which registers: FATAL_CAUSE only IN_FATAL and RESET, FLEN only IN_FRAME and RESET, STATE only the
control transactions, RES no control transaction but IN_FRAME and RESET. -/
def Obligations.RegistersAreWrittenByTheirOwnOperations : Prop :=
  ∀ (s t : State) (i : Instr), exec i s = .next t →
    ((∀ cause, i ≠ .inFatal cause) → i ≠ .reset → Reg.fatalCause.same s t) ∧
    ((∀ len data, i ≠ .inFrame len data) → i ≠ .reset → Reg.flen.same s t) ∧
    (i.levels = none → Reg.state.same s t) ∧
    (i.levels ≠ none → (∀ len data, i ≠ .inFrame len data) → i ≠ .reset → Reg.res.same s t)

/-- R54 (marked derived in the spec): the sink's results grow only at an acceptance, by exactly the result then offered; nothing is emitted
for an EMPTY or a FATAL input. -/
def Obligations.ResultsLeaveOneByOne : Prop :=
  ∀ s t : State, step s = .next t →
    t.emitted = s.emitted ∨
    (s.ctl = .processing ∧ t.ctl = .waiting ∧ t.pins.outReady = true ∧ t.emitted = s.emitted ++ [s.res])

/-- R138. Once the sink raises `out_ready` the pending result is emitted and the parser is back in WAITING in that very step, unless reset is
asserted; and on every unending run whose sink is weakly fair, every pending result is eventually emitted with the parser back in
WAITING, or discarded by a reset. The list of results taken is the model's own (log 17), and so is the order of moves (log 1). -/
def Obligations.AReadyOrFairSinkIsServed : Prop :=
  (∀ s u : State, s.parserTurn = some u → s.ctl = .processing → u.pins.rst = false → u.pins.outReady = true →
    ∃ t, step s = .next t ∧ t.ctl = .waiting ∧ t.emitted = s.emitted ++ [s.res] ∧ t.fb = s.fb) ∧
  (∀ run : Nat → State, IsRun run → SinkFair run → ∀ n, (run n).ctl = .processing →
    ∃ m, n ≤ m ∧ (run m).ctl = .processing ∧ (run (m + 1)).ctl = .waiting ∧
      ((run (m + 1)).emitted = (run m).emitted ++ [(run m).res] ∨ (run (m + 1)).pins.rst = true))

/-- R36 with R82 and R148: there is no cross-frame state. Two machines WAITING, whatever their FB, registers and marks, that process the same
frame emit the same result, record nothing new and wait for the next. -/
def Obligations.NoCrossFrameState : Prop :=
  ∀ (s₁ s₂ : State) (d : List Byte), s₁.ctl = .waiting → s₂.ctl = .waiting →
    d.length ≤ s₁.cfg.maxFrameLen → d.length ≤ s₂.cfg.maxFrameLen →
    ∃ r t₁ t₂, Host.Core.run Sys2Proof.core 2 ({ s₁ with agenda := process d } : State) = .next t₁ ∧
      Host.Core.run Sys2Proof.core 2 ({ s₂ with agenda := process d } : State) = .next t₂ ∧
      t₁.emitted = s₁.emitted ++ [r] ∧ t₂.emitted = s₂.emitted ++ [r] ∧ t₁.ctl = .waiting ∧ t₂.ctl = .waiting ∧
      t₁.faults = s₁.faults ∧ t₂.faults = s₂.faults

/-- R18, R20: the status outputs of each STATE. -/
def Obligations.StatusOutputsFollowState : Prop :=
  ∀ s : State,
    (s.outValid = true ↔ s.ctl = .processing) ∧ (s.stoppedOut = true ↔ s.ctl = .stopped) ∧ (s.fatalOut = true ↔ s.ctl = .halted) ∧
    (s.srcRelease = true ↔ (s.ctl = .stopped ∨ s.ctl = .halted)) ∧ s.fatalCauseOut = s.fatalCause

/-- R44: while PROCESSING the sink reads the frame's bytes. That a read answers nothing at FLEN and above and in every other STATE, where
the sink may not rely on FB, is the model's (log 18). -/
def Obligations.SinkReadsThePendingFrame : Prop :=
  ∀ (s : State) (i : Nat),
    (s.ctl = .processing → i < s.flen → s.sinkRead i = some (s.frame.byteAt i)) ∧
    (s.ctl = .processing → s.flen ≤ i → s.sinkRead i = none) ∧
    (s.ctl ≠ .processing → s.sinkRead i = none)

/-- R63 and R64: the codes of STATE, `err_kind`, `err_stage` and `chain_end`; no reserved code is produced. -/
def Obligations.CodesAreThoseOfTheTables : Prop :=
  (Ctl.waiting.code = 0b00#2 ∧ Ctl.processing.code = 0b01#2 ∧ Ctl.stopped.code = 0b10#2 ∧ Ctl.halted.code = 0b11#2) ∧
  (HdrStage.ethernet.code = 0b00#2 ∧ HdrStage.ipv4.code = 0b01#2 ∧ HdrStage.tcp.code = 0b10#2) ∧
  (ChainEnd.complete.code = 0b000#3 ∧ ChainEnd.notIpv4Ethertype.code = 0b001#3 ∧ ChainEnd.notIpv4Version.code = 0b010#3 ∧
    ChainEnd.notTcpProtocol.code = 0b011#3 ∧ ChainEnd.error.code = 0b100#3) ∧
  (∀ r : Res, (r.err = none → r.errKind = 0b00#2) ∧ (∀ st n a, r.err = some (.truncated st n a) → r.errKind = 0b01#2) ∧
    (∀ st w, r.err = some (.invalidLength st w) → r.errKind = 0b10#2)) ∧
  (∀ st : HdrStage, st.code ≠ 0b11#2) ∧ (∀ c : ChainEnd, c.code.toNat ≤ 4)
end

