-- ==== Sys2Proof/Laws/Frame.lean ====
section
/-! SUPPORT. Reading the frame: what a checked read answers, and each stage as a function of the frame's bytes. -/

namespace Sys2Proof.Machine

theorem Frame.guarded_of_le {α : Type} (f : Frame) (a n : Nat) (v : α) (h : a + n ≤ f.len) : f.guarded a n v = some v := by
  simp [Frame.guarded, h]

theorem Frame.guarded_of_gt {α : Type} (f : Frame) (a n : Nat) (v : α) (h : f.len < a + n) : f.guarded a n v = none := by
  simp [Frame.guarded, h]

theorem Frame.read1_of_le (f : Frame) (a : Nat) (h : a + 1 ≤ f.len) : f.read1 a = some (f.byteAt a) :=
  f.guarded_of_le a 1 _ h

theorem Frame.read2_of_le (f : Frame) (a : Nat) (h : a + 2 ≤ f.len) :
    f.read2 a = some (f.byteAt a ++ f.byteAt (a + 1)) := f.guarded_of_le a 2 _ h

theorem Frame.read4_of_le (f : Frame) (a : Nat) (h : a + 4 ≤ f.len) :
    f.read4 a = some (f.byteAt a ++ f.byteAt (a + 1) ++ f.byteAt (a + 2) ++ f.byteAt (a + 3)) := f.guarded_of_le a 4 _ h

theorem Frame.read6_of_le (f : Frame) (a : Nat) (h : a + 6 ≤ f.len) :
    f.read6 a = some (f.byteAt a ++ f.byteAt (a + 1) ++ f.byteAt (a + 2) ++ f.byteAt (a + 3) ++ f.byteAt (a + 4) ++
      f.byteAt (a + 5)) := f.guarded_of_le a 6 _ h

/-- The Ethernet view of a frame of at least 14 bytes. -/
def Frame.ethOf (f : Frame) : EthView where
    dst := f.byteAt 0 ++ f.byteAt 1 ++ f.byteAt 2 ++ f.byteAt 3 ++ f.byteAt 4 ++ f.byteAt 5
    src := f.byteAt 6 ++ f.byteAt 7 ++ f.byteAt 8 ++ f.byteAt 9 ++ f.byteAt 10 ++ f.byteAt 11
    ethertype := f.byteAt 12 ++ f.byteAt 13

/-- The IPv4 view of a frame of at least 34 bytes. -/
def Frame.ipOf (f : Frame) : IpView where
    len := fieldIpLen (loNibble (f.byteAt 14))
    version := hiNibble (f.byteAt 14)
    ihl := loNibble (f.byteAt 14)
    tos := f.byteAt 15
    totalLength := f.byteAt 16 ++ f.byteAt 17
    identification := f.byteAt 18 ++ f.byteAt 19
    ttl := f.byteAt 22
    protocol := f.byteAt 23
    checksum := f.byteAt 24 ++ f.byteAt 25
    saddr := f.byteAt 26 ++ f.byteAt 27 ++ f.byteAt 28 ++ f.byteAt 29
    daddr := f.byteAt 30 ++ f.byteAt 31 ++ f.byteAt 32 ++ f.byteAt 33

/-- The TCP view at `t` of a frame of at least `t + 20` bytes. -/
def Frame.tcpOf (f : Frame) (t : Nat) : TcpView where
    off := BitVec.ofNat 7 t
    len := fieldTcpLen (hiNibble (f.byteAt (t + 12)))
    sport := f.byteAt t ++ f.byteAt (t + 1)
    dport := f.byteAt (t + 2) ++ f.byteAt (t + 3)
    seq := f.byteAt (t + 4) ++ f.byteAt (t + 5) ++ f.byteAt (t + 6) ++ f.byteAt (t + 7)
    ackNum := f.byteAt (t + 8) ++ f.byteAt (t + 9) ++ f.byteAt (t + 10) ++ f.byteAt (t + 11)
    doff := hiNibble (f.byteAt (t + 12))
    urg := (f.byteAt (t + 13)).getLsbD 5
    ack := (f.byteAt (t + 13)).getLsbD 4
    psh := (f.byteAt (t + 13)).getLsbD 3
    rst := (f.byteAt (t + 13)).getLsbD 2
    syn := (f.byteAt (t + 13)).getLsbD 1
    fin := (f.byteAt (t + 13)).getLsbD 0
    window := f.byteAt (t + 14) ++ f.byteAt (t + 15)
    checksum := f.byteAt (t + 16) ++ f.byteAt (t + 17)
    urgPtr := f.byteAt (t + 18) ++ f.byteAt (t + 19)

theorem ethView_of_le (f : Frame) (h : 14 ≤ f.len) : ethView f = some f.ethOf := by
  simp (disch := omega) only [ethView, fieldEthDst, fieldEthSrc, fieldEthEthertype, Frame.read6_of_le, Frame.read2_of_le,
    Option.bind_eq_bind, Option.bind_some]
  rfl

theorem ipView_of_le (f : Frame) (h : 34 ≤ f.len) : ipView f = some f.ipOf := by
  simp (disch := omega) only [ipView, fieldIpVersion, fieldIpIhl, fieldIpTos, fieldIpTotalLength, fieldIpIdentification,
    fieldIpTtl, fieldIpProtocol, fieldIpChecksum, fieldIpSaddr, fieldIpDaddr, Frame.read1_of_le, Frame.read2_of_le,
    Frame.read4_of_le, Option.map_some, Option.bind_eq_bind, Option.bind_some]
  rfl

theorem tcpView_of_le (f : Frame) (t : Nat) (h : t + 20 ≤ f.len) : tcpView f t = some (f.tcpOf t) := by
  simp (disch := omega) only [tcpView, fieldTcpSport, fieldTcpDport, fieldTcpSeq, fieldTcpAckNum, fieldTcpDoff, fieldTcpUrg,
    fieldTcpAck, fieldTcpPsh, fieldTcpRst, fieldTcpSyn, fieldTcpFin, fieldTcpFlag, fieldTcpWindow, fieldTcpChecksum,
    fieldTcpUrgPtr, Frame.read1_of_le, Frame.read2_of_le, Frame.read4_of_le, Option.map_some, Option.bind_eq_bind,
    Option.bind_some]
  rfl

/-- The Ethernet stage as a function of the frame's bytes (R86). -/
theorem ethStage_eq (f : Frame) :
    ethStage f = some (if f.len < 14 then .fail (.truncated .ethernet 14 f.len) else .ok f.ethOf) := by
  unfold ethStage ethHdrLen
  split
  · rfl
  · rw [ethView_of_le f (by omega)]; rfl

/-- The IPv4 stage as a function of the frame's bytes (R91). -/
theorem ipv4Stage_eq (f : Frame) :
    ipv4Stage f = some (
      if f.len < 15 then .fail (.truncated .ipv4 34 f.len)
      else if (loNibble (f.byteAt 14)).toNat < 5 then .fail (.invalidLength .ipv4 (loNibble (f.byteAt 14)))
      else if f.len < 14 + (loNibble (f.byteAt 14)).toNat * 4 then
        .fail (.truncated .ipv4 (14 + (loNibble (f.byteAt 14)).toNat * 4) f.len)
      else if hiNibble (f.byteAt 14) = 4 then .ok f.ipOf else .skip) := by
  unfold ipv4Stage
  simp only [ipv4Base, nominalHdrLen, minWords, wordsToBytes]
  by_cases h15 : f.len < 15
  · simp [h15]
  · simp only [fieldIpIhl, fieldIpVersion, f.read1_of_le 14 (by omega), Option.map_some, h15, if_false]
    by_cases h5 : (loNibble (f.byteAt 14)).toNat < 5
    · simp [h5]
    · by_cases hl : f.len < 14 + (loNibble (f.byteAt 14)).toNat * 4
      · simp [h5, hl]
      · have hv := ipView_of_le f (by omega)
        simp only [h5, hl, hv, if_false, Option.map_some]
        split <;> rfl

/-- The TCP stage as a function of the frame's bytes (R106). -/
theorem tcpStage_eq (f : Frame) (t : Nat) :
    tcpStage f t = some (
      if f.len < t + 13 then .fail (.truncated .tcp (t + 20) f.len)
      else if (hiNibble (f.byteAt (t + 12))).toNat < 5 then .fail (.invalidLength .tcp (hiNibble (f.byteAt (t + 12))))
      else if f.len < t + (hiNibble (f.byteAt (t + 12))).toNat * 4 then
        .fail (.truncated .tcp (t + (hiNibble (f.byteAt (t + 12))).toNat * 4) f.len)
      else .ok (f.tcpOf t)) := by
  unfold tcpStage
  simp only [nominalHdrLen, minWords, wordsToBytes]
  by_cases h13 : f.len < t + 13
  · simp [h13]
  · simp only [fieldTcpDoff, f.read1_of_le (t + 12) (by omega), Option.map_some, h13, if_false]
    by_cases h5 : (hiNibble (f.byteAt (t + 12))).toNat < 5
    · simp [h5]
    · by_cases hl : f.len < t + (hiNibble (f.byteAt (t + 12))).toNat * 4
      · simp [h5, hl]
      · simp [h5, hl, tcpView_of_le f t (by omega)]

end Sys2Proof.Machine
end

