-- ==== Sys2Proof/Laws/State.lean ====
section
/-! SUPPORT. What each named update does to each field of the state. -/

namespace Sys2Proof.Machine

@[simp] theorem State.addFault_cfg (s : State) (r : FaultReason) : (s.addFault r).cfg = s.cfg := by cases r <;> rfl
@[simp] theorem State.addFault_ctl (s : State) (r : FaultReason) : (s.addFault r).ctl = s.ctl := by cases r <;> rfl
@[simp] theorem State.addFault_flen (s : State) (r : FaultReason) : (s.addFault r).flen = s.flen := by cases r <;> rfl
@[simp] theorem State.addFault_res (s : State) (r : FaultReason) : (s.addFault r).res = s.res := by cases r <;> rfl
@[simp] theorem State.addFault_fatalCause (s : State) (r : FaultReason) : (s.addFault r).fatalCause = s.fatalCause := by cases r <;> rfl
@[simp] theorem State.addFault_fb (s : State) (r : FaultReason) : (s.addFault r).fb = s.fb := by cases r <;> rfl
@[simp] theorem State.addFault_stage (s : State) (r : FaultReason) : (s.addFault r).stage = s.stage := by cases r <;> rfl
@[simp] theorem State.addFault_cur (s : State) (r : FaultReason) : (s.addFault r).cur = s.cur := by cases r <;> rfl
@[simp] theorem State.addFault_refused (s : State) (r : FaultReason) : (s.addFault r).refused = s.refused := by cases r <;> rfl
@[simp] theorem State.addFault_pins (s : State) (r : FaultReason) : (s.addFault r).pins = s.pins := by cases r <;> rfl
@[simp] theorem State.addFault_ret (s : State) (r : FaultReason) : (s.addFault r).ret = s.ret := by cases r <;> rfl
@[simp] theorem State.addFault_agenda (s : State) (r : FaultReason) : (s.addFault r).agenda = s.agenda := by cases r <;> rfl
@[simp] theorem State.addFault_emitted (s : State) (r : FaultReason) : (s.addFault r).emitted = s.emitted := by cases r <;> rfl
@[simp] theorem State.addFault_fresh (s : State) (r : FaultReason) : (s.addFault r).fresh = s.fresh := by cases r <;> rfl

@[simp] theorem State.addRefusal_cfg (s : State) (r : RefusalReason) : (s.addRefusal r).cfg = s.cfg := by cases r <;> rfl
@[simp] theorem State.addRefusal_ctl (s : State) (r : RefusalReason) : (s.addRefusal r).ctl = s.ctl := by cases r <;> rfl
@[simp] theorem State.addRefusal_flen (s : State) (r : RefusalReason) : (s.addRefusal r).flen = s.flen := by cases r <;> rfl
@[simp] theorem State.addRefusal_res (s : State) (r : RefusalReason) : (s.addRefusal r).res = s.res := by cases r <;> rfl
@[simp] theorem State.addRefusal_fatalCause (s : State) (r : RefusalReason) : (s.addRefusal r).fatalCause = s.fatalCause := by cases r <;> rfl
@[simp] theorem State.addRefusal_fb (s : State) (r : RefusalReason) : (s.addRefusal r).fb = s.fb := by cases r <;> rfl
@[simp] theorem State.addRefusal_stage (s : State) (r : RefusalReason) : (s.addRefusal r).stage = s.stage := by cases r <;> rfl
@[simp] theorem State.addRefusal_cur (s : State) (r : RefusalReason) : (s.addRefusal r).cur = s.cur := by cases r <;> rfl
@[simp] theorem State.addRefusal_faults (s : State) (r : RefusalReason) : (s.addRefusal r).faults = s.faults := by cases r <;> rfl
@[simp] theorem State.addRefusal_pins (s : State) (r : RefusalReason) : (s.addRefusal r).pins = s.pins := by cases r <;> rfl
@[simp] theorem State.addRefusal_ret (s : State) (r : RefusalReason) : (s.addRefusal r).ret = s.ret := by cases r <;> rfl
@[simp] theorem State.addRefusal_agenda (s : State) (r : RefusalReason) : (s.addRefusal r).agenda = s.agenda := by cases r <;> rfl
@[simp] theorem State.addRefusal_emitted (s : State) (r : RefusalReason) : (s.addRefusal r).emitted = s.emitted := by cases r <;> rfl
@[simp] theorem State.addRefusal_fresh (s : State) (r : RefusalReason) : (s.addRefusal r).fresh = s.fresh := by cases r <;> rfl

@[simp] theorem State.putResolution_some_cfg (s : State) (res : Res) (c : BitVec 7) : (s.putResolution (some (res, c))).cfg = s.cfg := rfl
@[simp] theorem State.putResolution_some_ctl (s : State) (res : Res) (c : BitVec 7) : (s.putResolution (some (res, c))).ctl = s.ctl := rfl
@[simp] theorem State.putResolution_some_flen (s : State) (res : Res) (c : BitVec 7) : (s.putResolution (some (res, c))).flen = s.flen := rfl
@[simp] theorem State.putResolution_some_res (s : State) (res : Res) (c : BitVec 7) : (s.putResolution (some (res, c))).res = res := rfl
@[simp] theorem State.putResolution_some_fatalCause (s : State) (res : Res) (c : BitVec 7) : (s.putResolution (some (res, c))).fatalCause = s.fatalCause := rfl
@[simp] theorem State.putResolution_some_fb (s : State) (res : Res) (c : BitVec 7) : (s.putResolution (some (res, c))).fb = s.fb := rfl
@[simp] theorem State.putResolution_some_stage (s : State) (res : Res) (c : BitVec 7) : (s.putResolution (some (res, c))).stage = .done := rfl
@[simp] theorem State.putResolution_some_cur (s : State) (res : Res) (c : BitVec 7) : (s.putResolution (some (res, c))).cur = c := rfl
@[simp] theorem State.putResolution_some_faults (s : State) (res : Res) (c : BitVec 7) : (s.putResolution (some (res, c))).faults = s.faults := rfl
@[simp] theorem State.putResolution_some_refused (s : State) (res : Res) (c : BitVec 7) : (s.putResolution (some (res, c))).refused = s.refused := rfl
@[simp] theorem State.putResolution_some_pins (s : State) (res : Res) (c : BitVec 7) : (s.putResolution (some (res, c))).pins = s.pins := rfl
@[simp] theorem State.putResolution_some_ret (s : State) (res : Res) (c : BitVec 7) : (s.putResolution (some (res, c))).ret = s.ret := rfl
@[simp] theorem State.putResolution_some_agenda (s : State) (res : Res) (c : BitVec 7) : (s.putResolution (some (res, c))).agenda = s.agenda := rfl
@[simp] theorem State.putResolution_some_emitted (s : State) (res : Res) (c : BitVec 7) : (s.putResolution (some (res, c))).emitted = s.emitted := rfl
@[simp] theorem State.putResolution_some_fresh (s : State) (res : Res) (c : BitVec 7) : (s.putResolution (some (res, c))).fresh = s.fresh := rfl

@[simp] theorem State.putReturn_some_cfg (s : State) (st : SeqStage) (c : Nat) (v : Returned) : (s.putReturn st c (some v)).cfg = s.cfg := rfl
@[simp] theorem State.putReturn_some_ctl (s : State) (st : SeqStage) (c : Nat) (v : Returned) : (s.putReturn st c (some v)).ctl = s.ctl := rfl
@[simp] theorem State.putReturn_some_flen (s : State) (st : SeqStage) (c : Nat) (v : Returned) : (s.putReturn st c (some v)).flen = s.flen := rfl
@[simp] theorem State.putReturn_some_res (s : State) (st : SeqStage) (c : Nat) (v : Returned) : (s.putReturn st c (some v)).res = s.res := rfl
@[simp] theorem State.putReturn_some_fatalCause (s : State) (st : SeqStage) (c : Nat) (v : Returned) : (s.putReturn st c (some v)).fatalCause = s.fatalCause := rfl
@[simp] theorem State.putReturn_some_fb (s : State) (st : SeqStage) (c : Nat) (v : Returned) : (s.putReturn st c (some v)).fb = s.fb := rfl
@[simp] theorem State.putReturn_some_stage (s : State) (st : SeqStage) (c : Nat) (v : Returned) : (s.putReturn st c (some v)).stage = st := rfl
@[simp] theorem State.putReturn_some_cur (s : State) (st : SeqStage) (c : Nat) (v : Returned) : (s.putReturn st c (some v)).cur = BitVec.ofNat 7 c := rfl
@[simp] theorem State.putReturn_some_faults (s : State) (st : SeqStage) (c : Nat) (v : Returned) : (s.putReturn st c (some v)).faults = s.faults := rfl
@[simp] theorem State.putReturn_some_refused (s : State) (st : SeqStage) (c : Nat) (v : Returned) : (s.putReturn st c (some v)).refused = s.refused := rfl
@[simp] theorem State.putReturn_some_pins (s : State) (st : SeqStage) (c : Nat) (v : Returned) : (s.putReturn st c (some v)).pins = s.pins := rfl
@[simp] theorem State.putReturn_some_ret (s : State) (st : SeqStage) (c : Nat) (v : Returned) : (s.putReturn st c (some v)).ret = some v := rfl
@[simp] theorem State.putReturn_some_agenda (s : State) (st : SeqStage) (c : Nat) (v : Returned) : (s.putReturn st c (some v)).agenda = s.agenda := rfl
@[simp] theorem State.putReturn_some_emitted (s : State) (st : SeqStage) (c : Nat) (v : Returned) : (s.putReturn st c (some v)).emitted = s.emitted := rfl
@[simp] theorem State.putReturn_some_fresh (s : State) (st : SeqStage) (c : Nat) (v : Returned) : (s.putReturn st c (some v)).fresh = s.fresh := rfl

@[simp] theorem State.loadFrame_cfg (s : State) (len : Nat) (data : List Byte) : (s.loadFrame len data).cfg = s.cfg := rfl
@[simp] theorem State.loadFrame_ctl (s : State) (len : Nat) (data : List Byte) : (s.loadFrame len data).ctl = s.ctl := rfl
@[simp] theorem State.loadFrame_flen (s : State) (len : Nat) (data : List Byte) : (s.loadFrame len data).flen = len := rfl
@[simp] theorem State.loadFrame_res (s : State) (len : Nat) (data : List Byte) : (s.loadFrame len data).res = s.res := rfl
@[simp] theorem State.loadFrame_fatalCause (s : State) (len : Nat) (data : List Byte) : (s.loadFrame len data).fatalCause = s.fatalCause := rfl
@[simp] theorem State.loadFrame_fb (s : State) (len : Nat) (data : List Byte) : (s.loadFrame len data).fb = s.fb.writeFrom 0 (data.take len) := rfl
@[simp] theorem State.loadFrame_stage (s : State) (len : Nat) (data : List Byte) : (s.loadFrame len data).stage = s.stage := rfl
@[simp] theorem State.loadFrame_cur (s : State) (len : Nat) (data : List Byte) : (s.loadFrame len data).cur = s.cur := rfl
@[simp] theorem State.loadFrame_faults (s : State) (len : Nat) (data : List Byte) : (s.loadFrame len data).faults = s.faults := rfl
@[simp] theorem State.loadFrame_refused (s : State) (len : Nat) (data : List Byte) : (s.loadFrame len data).refused = s.refused := rfl
@[simp] theorem State.loadFrame_pins (s : State) (len : Nat) (data : List Byte) : (s.loadFrame len data).pins = s.pins := rfl
@[simp] theorem State.loadFrame_ret (s : State) (len : Nat) (data : List Byte) : (s.loadFrame len data).ret = s.ret := rfl
@[simp] theorem State.loadFrame_agenda (s : State) (len : Nat) (data : List Byte) : (s.loadFrame len data).agenda = s.agenda := rfl
@[simp] theorem State.loadFrame_emitted (s : State) (len : Nat) (data : List Byte) : (s.loadFrame len data).emitted = s.emitted := rfl
@[simp] theorem State.loadFrame_fresh (s : State) (len : Nat) (data : List Byte) : (s.loadFrame len data).fresh = s.fresh := rfl

@[simp] theorem State.takeFatal_cfg (s : State) (cause : Nat) : (s.takeFatal cause).cfg = s.cfg := rfl
@[simp] theorem State.takeFatal_ctl (s : State) (cause : Nat) : (s.takeFatal cause).ctl = .halted := rfl
@[simp] theorem State.takeFatal_flen (s : State) (cause : Nat) : (s.takeFatal cause).flen = s.flen := rfl
@[simp] theorem State.takeFatal_res (s : State) (cause : Nat) : (s.takeFatal cause).res = s.res := rfl
@[simp] theorem State.takeFatal_fatalCause (s : State) (cause : Nat) : (s.takeFatal cause).fatalCause = cause := rfl
@[simp] theorem State.takeFatal_fb (s : State) (cause : Nat) : (s.takeFatal cause).fb = s.fb := rfl
@[simp] theorem State.takeFatal_stage (s : State) (cause : Nat) : (s.takeFatal cause).stage = s.stage := rfl
@[simp] theorem State.takeFatal_cur (s : State) (cause : Nat) : (s.takeFatal cause).cur = s.cur := rfl
@[simp] theorem State.takeFatal_faults (s : State) (cause : Nat) : (s.takeFatal cause).faults = s.faults := rfl
@[simp] theorem State.takeFatal_refused (s : State) (cause : Nat) : (s.takeFatal cause).refused = s.refused := rfl
@[simp] theorem State.takeFatal_pins (s : State) (cause : Nat) : (s.takeFatal cause).pins = s.pins := rfl
@[simp] theorem State.takeFatal_ret (s : State) (cause : Nat) : (s.takeFatal cause).ret = s.ret := rfl
@[simp] theorem State.takeFatal_agenda (s : State) (cause : Nat) : (s.takeFatal cause).agenda = s.agenda := rfl
@[simp] theorem State.takeFatal_emitted (s : State) (cause : Nat) : (s.takeFatal cause).emitted = s.emitted := rfl
@[simp] theorem State.takeFatal_fresh (s : State) (cause : Nat) : (s.takeFatal cause).fresh = s.fresh := rfl

@[simp] theorem State.acceptResult_cfg (s : State) : (s.acceptResult).cfg = s.cfg := rfl
@[simp] theorem State.acceptResult_ctl (s : State) : (s.acceptResult).ctl = .waiting := rfl
@[simp] theorem State.acceptResult_flen (s : State) : (s.acceptResult).flen = s.flen := rfl
@[simp] theorem State.acceptResult_res (s : State) : (s.acceptResult).res = s.res := rfl
@[simp] theorem State.acceptResult_fatalCause (s : State) : (s.acceptResult).fatalCause = s.fatalCause := rfl
@[simp] theorem State.acceptResult_fb (s : State) : (s.acceptResult).fb = s.fb := rfl
@[simp] theorem State.acceptResult_stage (s : State) : (s.acceptResult).stage = s.stage := rfl
@[simp] theorem State.acceptResult_cur (s : State) : (s.acceptResult).cur = s.cur := rfl
@[simp] theorem State.acceptResult_faults (s : State) : (s.acceptResult).faults = s.faults := rfl
@[simp] theorem State.acceptResult_refused (s : State) : (s.acceptResult).refused = s.refused := rfl
@[simp] theorem State.acceptResult_pins (s : State) : (s.acceptResult).pins = s.pins := rfl
@[simp] theorem State.acceptResult_ret (s : State) : (s.acceptResult).ret = s.ret := rfl
@[simp] theorem State.acceptResult_agenda (s : State) : (s.acceptResult).agenda = s.agenda := rfl
@[simp] theorem State.acceptResult_emitted (s : State) : (s.acceptResult).emitted = s.emitted ++ [s.res] := rfl
@[simp] theorem State.acceptResult_fresh (s : State) : (s.acceptResult).fresh = s.fresh := rfl

@[simp] theorem State.resetRegisters_cfg (s : State) : (s.resetRegisters).cfg = s.cfg := rfl
@[simp] theorem State.resetRegisters_ctl (s : State) : (s.resetRegisters).ctl = .waiting := rfl
@[simp] theorem State.resetRegisters_flen (s : State) : (s.resetRegisters).flen = 0 := rfl
@[simp] theorem State.resetRegisters_res (s : State) : (s.resetRegisters).res = Res.afterReset s.cfg s.fresh := rfl
@[simp] theorem State.resetRegisters_fatalCause (s : State) : (s.resetRegisters).fatalCause = 0 := rfl
@[simp] theorem State.resetRegisters_fb (s : State) : (s.resetRegisters).fb = s.fb := rfl
@[simp] theorem State.resetRegisters_stage (s : State) : (s.resetRegisters).stage = SeqStage.ofFin (Config.resetStage s.fresh) := rfl
@[simp] theorem State.resetRegisters_cur (s : State) : (s.resetRegisters).cur = Config.resetCur s.fresh := rfl
@[simp] theorem State.resetRegisters_faults (s : State) : (s.resetRegisters).faults = s.faults := rfl
@[simp] theorem State.resetRegisters_refused (s : State) : (s.resetRegisters).refused = s.refused := rfl
@[simp] theorem State.resetRegisters_pins (s : State) : (s.resetRegisters).pins = s.pins := rfl
@[simp] theorem State.resetRegisters_ret (s : State) : (s.resetRegisters).ret = none := rfl
@[simp] theorem State.resetRegisters_agenda (s : State) : (s.resetRegisters).agenda = s.agenda := rfl
@[simp] theorem State.resetRegisters_emitted (s : State) : (s.resetRegisters).emitted = s.emitted := rfl
@[simp] theorem State.resetRegisters_fresh (s : State) : (s.resetRegisters).fresh = s.fresh + 1 := rfl

@[simp] theorem State.addFault_readBeyondFrame (s : State) :
    (s.addFault .readBeyondFrame).faults = { s.faults with readBeyondFrame := true } := rfl
@[simp] theorem State.addFault_hostFbWriteBusy (s : State) :
    (s.addFault .hostFbWriteBusy).faults = { s.faults with hostFbWriteBusy := true } := rfl
@[simp] theorem State.addRefusal_reservedInKind (s : State) :
    (s.addRefusal .reservedInKind).refused = { s.refused with reservedInKind := true } := rfl
@[simp] theorem State.addRefusal_oversizeFrame (s : State) :
    (s.addRefusal .oversizeFrame).refused = { s.refused with oversizeFrame := true } := rfl

@[simp] theorem State.frame_fb (s : State) : s.frame.fb = s.fb := rfl
@[simp] theorem State.frame_len (s : State) : s.frame.len = s.flen := rfl

@[simp] theorem Res.raise_frameLen (r : Res) (e : ErrRec) : (r.raise e).frameLen = r.frameLen := rfl
@[simp] theorem Res.raise_eth (r : Res) (e : ErrRec) : (r.raise e).eth = r.eth := rfl
@[simp] theorem Res.raise_ip (r : Res) (e : ErrRec) : (r.raise e).ip = r.ip := rfl
@[simp] theorem Res.raise_tcp (r : Res) (e : ErrRec) : (r.raise e).tcp = r.tcp := rfl
@[simp] theorem Res.raise_err (r : Res) (e : ErrRec) : (r.raise e).err = some e := rfl
@[simp] theorem Res.raise_chainEnd (r : Res) (e : ErrRec) : (r.raise e).chainEnd = .error := rfl
@[simp] theorem Res.endChain_frameLen (r : Res) (c : ChainEnd) : (r.endChain c).frameLen = r.frameLen := rfl
@[simp] theorem Res.endChain_eth (r : Res) (c : ChainEnd) : (r.endChain c).eth = r.eth := rfl
@[simp] theorem Res.endChain_ip (r : Res) (c : ChainEnd) : (r.endChain c).ip = r.ip := rfl
@[simp] theorem Res.endChain_tcp (r : Res) (c : ChainEnd) : (r.endChain c).tcp = r.tcp := rfl
@[simp] theorem Res.endChain_err (r : Res) (c : ChainEnd) : (r.endChain c).err = r.err := rfl
@[simp] theorem Res.endChain_chainEnd (r : Res) (c : ChainEnd) : (r.endChain c).chainEnd = c := rfl
@[simp] theorem Res.start_frameLen (n : Nat) : (Res.start n).frameLen = n := rfl
@[simp] theorem Res.start_eth (n : Nat) : (Res.start n).eth = none := rfl
@[simp] theorem Res.start_ip (n : Nat) : (Res.start n).ip = none := rfl
@[simp] theorem Res.start_tcp (n : Nat) : (Res.start n).tcp = none := rfl
@[simp] theorem Res.start_err (n : Nat) : (Res.start n).err = none := rfl

/-- What an operation of the resolver can answer (R135). -/
theorem State.resolverStep_eq (s t u : State) (h : s.resolverStep t = .next u) : u = t ∨ u = s := by
  unfold State.resolverStep at h
  split at h <;> simp_all

/-- While the parser runs, an operation of the resolver answers its state. -/
theorem State.resolverStep_running (s t : State) (h : s.running = true) : s.resolverStep t = .next t := by
  simp [State.resolverStep, h]

/-- In a terminal state an operation of the resolver leaves everything (R135). -/
theorem State.resolverStep_ended (s t : State) (h : s.running = false) : s.resolverStep t = .next s := by
  simp [State.resolverStep, h]

/-- What writing one field of the Ethernet view can do: nothing where there is no view, the fault of a read beyond the frame, or the
field. -/
theorem State.putEth_cases {α : Type} (s : State) (x : Option α) (put : EthView → α → EthView) :
    (s.res.eth = none ∧ s.putEth x put = s) ∨
    (x = none ∧ s.putEth x put = s.addFault .readBeyondFrame) ∨
    (∃ v a, s.res.eth = some v ∧ x = some a ∧
      s.putEth x put = { s with res := { s.res with eth := some (put v a) } }) := by
  unfold State.putEth
  cases h : s.res.eth with
  | none => exact .inl ⟨rfl, rfl⟩
  | some v => cases x with
    | none => exact .inr (.inl ⟨rfl, rfl⟩)
    | some a => exact .inr (.inr ⟨v, a, rfl, rfl, rfl⟩)

/-- What writing one field of the IPv4 view can do. -/
theorem State.putIp_cases {α : Type} (s : State) (x : IpView → Option α) (put : IpView → α → IpView) :
    (s.res.ip = none ∧ s.putIp x put = s) ∨
    (∃ v, s.res.ip = some v ∧ x v = none ∧ s.putIp x put = s.addFault .readBeyondFrame) ∨
    (∃ v a, s.res.ip = some v ∧ x v = some a ∧
      s.putIp x put = { s with res := { s.res with ip := some (put v a) } }) := by
  unfold State.putIp
  cases h : s.res.ip with
  | none => exact .inl ⟨rfl, rfl⟩
  | some v => cases h' : x v with
    | none => exact .inr (.inl ⟨v, rfl, h', by simp [h']⟩)
    | some a => exact .inr (.inr ⟨v, a, rfl, h', by simp [h']⟩)

/-- What writing one field of the TCP view can do. -/
theorem State.putTcp_cases {α : Type} (s : State) (x : TcpView → Option α) (put : TcpView → α → TcpView) :
    (s.res.tcp = none ∧ s.putTcp x put = s) ∨
    (∃ v, s.res.tcp = some v ∧ x v = none ∧ s.putTcp x put = s.addFault .readBeyondFrame) ∨
    (∃ v a, s.res.tcp = some v ∧ x v = some a ∧
      s.putTcp x put = { s with res := { s.res with tcp := some (put v a) } }) := by
  unfold State.putTcp
  cases h : s.res.tcp with
  | none => exact .inl ⟨rfl, rfl⟩
  | some v => cases h' : x v with
    | none => exact .inr (.inl ⟨v, rfl, h', by simp [h']⟩)
    | some a => exact .inr (.inr ⟨v, a, rfl, h', by simp [h']⟩)

end Sys2Proof.Machine
end

