-- ==== Sys2Proof/Laws/Chain.lean ====
section
/-! SUPPORT. The chain as a function of the frame: every way a resolution can end, with its condition (R72, R81). -/

namespace Sys2Proof.Machine

theorem Frame.ipOf_len (f : Frame) : f.ipOf.len.toNat = (loNibble (f.byteAt 14)).toNat * 4 := by
  have h : (loNibble (f.byteAt 14)).toNat < 16 := (loNibble (f.byteAt 14)).isLt
  simp [Frame.ipOf, fieldIpLen, wordsToBytes]; omega

theorem Frame.tcpOf_len (f : Frame) (t : Nat) : (f.tcpOf t).len.toNat = (hiNibble (f.byteAt (t + 12))).toNat * 4 := by
  have h : (hiNibble (f.byteAt (t + 12))).toNat < 16 := (hiNibble (f.byteAt (t + 12))).isLt
  simp [Frame.tcpOf, fieldTcpLen, wordsToBytes]; omega

/-- T is at most 74, so the 7 bits of `off` and of CUR hold it (R28, R34). -/
theorem Frame.tcpStart_le (f : Frame) : 14 + f.ipOf.len.toNat ≤ 74 := by
  have h : (loNibble (f.byteAt 14)).toNat < 16 := (loNibble (f.byteAt 14)).isLt
  rw [f.ipOf_len]; omega

/-- RES with the Ethernet view only. -/
def Frame.resEth (f : Frame) : Res := { Res.start f.len with eth := some f.ethOf }

/-- RES with the Ethernet and the IPv4 view. -/
def Frame.resIp (f : Frame) : Res := { f.resEth with ip := some f.ipOf }

/-- Where the TCP header starts. -/
def Frame.tcpAt (f : Frame) : Nat := 14 + f.ipOf.len.toNat

/-- RES with all three views. -/
def Frame.resTcp (f : Frame) : Res := { f.resIp with tcp := some (f.tcpOf f.tcpAt) }

/-- The resolution of a frame whose IPv4 view is produced: the TCP stage's three failures, a view, or no TCP at all. -/
theorem chainAfterIpv4_cases (f : Frame) :
    (f.ipOf.protocol ≠ 6 ∧ chainAfterIpv4 f f.resIp f.ipOf = some (f.resIp.endChain .notTcpProtocol, 14)) ∨
    (f.ipOf.protocol = 6 ∧ ∃ r, chainAfterIpv4 f f.resIp f.ipOf = some (r, BitVec.ofNat 7 f.tcpAt) ∧
      ((f.len < f.tcpAt + 13 ∧ r = f.resIp.raise (.truncated .tcp (f.tcpAt + 20) f.len)) ∨
       (f.tcpAt + 13 ≤ f.len ∧ (hiNibble (f.byteAt (f.tcpAt + 12))).toNat < 5 ∧
          r = f.resIp.raise (.invalidLength .tcp (hiNibble (f.byteAt (f.tcpAt + 12))))) ∨
       (f.tcpAt + 13 ≤ f.len ∧ 5 ≤ (hiNibble (f.byteAt (f.tcpAt + 12))).toNat ∧
          f.len < f.tcpAt + (hiNibble (f.byteAt (f.tcpAt + 12))).toNat * 4 ∧
          r = f.resIp.raise (.truncated .tcp (f.tcpAt + (hiNibble (f.byteAt (f.tcpAt + 12))).toNat * 4) f.len)) ∨
       (f.tcpAt + 13 ≤ f.len ∧ 5 ≤ (hiNibble (f.byteAt (f.tcpAt + 12))).toNat ∧
          f.tcpAt + (hiNibble (f.byteAt (f.tcpAt + 12))).toNat * 4 ≤ f.len ∧ r = f.resTcp.endChain .complete))) := by
  unfold chainAfterIpv4
  by_cases h6 : f.ipOf.protocol = 6
  · refine .inr ⟨h6, ?_⟩
    have ht : ipv4Base + f.ipOf.len.toNat = f.tcpAt := rfl
    rw [if_pos (show f.ipOf.protocol = tcpProto from h6), ht, tcpStage_eq]
    by_cases h13 : f.len < f.tcpAt + 13
    · exact ⟨_, by rw [if_pos h13], .inl ⟨h13, rfl⟩⟩
    · by_cases h5 : (hiNibble (f.byteAt (f.tcpAt + 12))).toNat < 5
      · exact ⟨_, by rw [if_neg h13, if_pos h5], .inr (.inl ⟨by omega, h5, rfl⟩)⟩
      · by_cases hl : f.len < f.tcpAt + (hiNibble (f.byteAt (f.tcpAt + 12))).toNat * 4
        · exact ⟨_, by rw [if_neg h13, if_neg h5, if_pos hl], .inr (.inr (.inl ⟨by omega, by omega, hl, rfl⟩))⟩
        · exact ⟨_, by rw [if_neg h13, if_neg h5, if_neg hl]; rfl, .inr (.inr (.inr ⟨by omega, by omega, by omega, rfl⟩))⟩
  · exact .inl ⟨h6, by rw [if_neg (show ¬f.ipOf.protocol = tcpProto from h6)]; rfl⟩

/-- The resolution of a frame up to the IPv4 stage; with an IPv4 view it is that of `chainAfterIpv4_cases`. -/
theorem chainResolve_cases (f : Frame) :
    (f.len < 14 ∧ chainResolve f = some ((Res.start f.len).raise (.truncated .ethernet 14 f.len), 0)) ∨
    (14 ≤ f.len ∧ f.ethOf.ethertype ≠ 0x0800 ∧ chainResolve f = some (f.resEth.endChain .notIpv4Ethertype, 0)) ∨
    (f.len = 14 ∧ f.ethOf.ethertype = 0x0800 ∧ chainResolve f = some (f.resEth.raise (.truncated .ipv4 34 f.len), 14)) ∨
    (15 ≤ f.len ∧ f.ethOf.ethertype = 0x0800 ∧ (loNibble (f.byteAt 14)).toNat < 5 ∧
      chainResolve f = some (f.resEth.raise (.invalidLength .ipv4 (loNibble (f.byteAt 14))), 14)) ∨
    (15 ≤ f.len ∧ f.ethOf.ethertype = 0x0800 ∧ 5 ≤ (loNibble (f.byteAt 14)).toNat ∧ f.len < f.tcpAt ∧
      chainResolve f = some (f.resEth.raise (.truncated .ipv4 f.tcpAt f.len), 14)) ∨
    (15 ≤ f.len ∧ f.ethOf.ethertype = 0x0800 ∧ 5 ≤ (loNibble (f.byteAt 14)).toNat ∧ f.tcpAt ≤ f.len ∧
      hiNibble (f.byteAt 14) ≠ 4 ∧ chainResolve f = some (f.resEth.endChain .notIpv4Version, 14)) ∨
    (15 ≤ f.len ∧ f.ethOf.ethertype = 0x0800 ∧ 5 ≤ (loNibble (f.byteAt 14)).toNat ∧ f.tcpAt ≤ f.len ∧
      hiNibble (f.byteAt 14) = 4 ∧ chainResolve f = chainAfterIpv4 f f.resIp f.ipOf) := by
  have ht : f.tcpAt = 14 + (loNibble (f.byteAt 14)).toNat * 4 := by unfold Frame.tcpAt; rw [f.ipOf_len]
  unfold chainResolve
  rw [ethStage_eq]
  by_cases h14 : f.len < 14
  · exact .inl ⟨h14, by rw [if_pos h14]⟩
  rw [if_neg h14]
  refine .inr ?_
  change (_ ∧ _ ∧ chainAfterEth f f.resEth f.ethOf = _) ∨ (_ ∧ _ ∧ chainAfterEth f f.resEth f.ethOf = _) ∨
    (_ ∧ _ ∧ _ ∧ chainAfterEth f f.resEth f.ethOf = _) ∨ (_ ∧ _ ∧ _ ∧ _ ∧ chainAfterEth f f.resEth f.ethOf = _) ∨
    (_ ∧ _ ∧ _ ∧ _ ∧ _ ∧ chainAfterEth f f.resEth f.ethOf = _) ∨ (_ ∧ _ ∧ _ ∧ _ ∧ _ ∧ chainAfterEth f f.resEth f.ethOf = _)
  unfold chainAfterEth
  by_cases he : f.ethOf.ethertype = 0x0800
  swap
  · exact .inl ⟨by omega, he, by rw [if_neg (show ¬f.ethOf.ethertype = ethertypeIpv4 from he)]⟩
  refine .inr ?_
  rw [if_pos (show f.ethOf.ethertype = ethertypeIpv4 from he), ipv4Stage_eq]
  by_cases h15 : f.len < 15
  · exact .inl ⟨by omega, he, by rw [if_pos h15]; rfl⟩
  rw [if_neg h15]
  refine .inr ?_
  by_cases h5 : (loNibble (f.byteAt 14)).toNat < 5
  · exact .inl ⟨by omega, he, h5, by rw [if_pos h5]; rfl⟩
  rw [if_neg h5]
  refine .inr ?_
  by_cases hl : f.len < 14 + (loNibble (f.byteAt 14)).toNat * 4
  · exact .inl ⟨by omega, he, by omega, by omega, by rw [if_pos hl, ht]; rfl⟩
  rw [if_neg hl]
  refine .inr ?_
  by_cases h4 : hiNibble (f.byteAt 14) = 4
  · exact .inr ⟨by omega, he, by omega, by omega, h4, by rw [if_pos h4]; rfl⟩
  · exact .inl ⟨by omega, he, by omega, by omega, h4, by rw [if_neg h4]; rfl⟩

end Sys2Proof.Machine
end

