-- ==== Sys2Proof/Laws/Decode.lean ====
section
/-! SUPPORT. Numbers as bytes: the helpers of the decoder and the encoder undo each other. -/

namespace Sys2Proof

theorem beValue_append (xs : List Byte) (b : Byte) : beValue (xs ++ [b]) = beValue xs * 256 + b.toNat := by
  simp [beValue, List.foldl_append]

@[simp] theorem beBytes_length (n v : Nat) : (beBytes n v).length = n := by
  induction n generalizing v with
  | zero => rfl
  | succ n ih => simp [beBytes, ih]

/-- The bytes of a number that fits spell it. -/
theorem beValue_beBytes (n v : Nat) (h : v < 256 ^ n) : beValue (beBytes n v) = v := by
  induction n generalizing v with
  | zero => simp at h; simp [h, beBytes, beValue]
  | succ n ih =>
    have hq : v / 256 < 256 ^ n := by rw [Nat.div_lt_iff_lt_mul (by omega), ← Nat.pow_succ]; exact h
    rw [beBytes, beValue_append, ih _ hq]
    simp only [BitVec.toNat_ofNat]
    omega

/-- Splitting off the first of two strings. -/
theorem splitBytes_append (xs ys : List Byte) : splitBytes xs.length (xs ++ ys) = some (xs, ys) := by
  simp [splitBytes]

/-- A number of `w` bits fits in the whole bytes that hold `w` bits. -/
theorem lt_pow_bytes (w v : Nat) (h : v < 2 ^ w) : v < 256 ^ ((w + 7) / 8) := by
  have h256 : (256 : Nat) ^ ((w + 7) / 8) = 2 ^ (8 * ((w + 7) / 8)) := by
    rw [Nat.pow_mul]
  rw [h256]
  exact Nat.lt_of_lt_of_le h (Nat.pow_le_pow_right (by omega) (by omega))

/-- Every length the block accepts fits `LEN_W` bits (R9, R12). -/
theorem Params.lt_pow_lenW (c : Params) (n : Nat) (h : n ≤ c.maxFrameLen) : n < 2 ^ c.lenW := by
  unfold Params.lenW
  split
  · simp; omega
  · exact Nat.lt_of_le_of_lt h Nat.lt_log2_self

end Sys2Proof
end

