-- ==== Sys2Proof/Laws/Memory.lean ====
section
/-! SUPPORT. The frame buffer: a read after a write, and the canonical form every memory operation keeps. -/

namespace Sys2Proof.Machine

theorem Memory.get_set_same (m : Memory) (i : Nat) (v : Byte) : (m.set i v).get i = some v := by
  induction m with
  | nil => simp [Memory.set, Memory.get]
  | cons p m ih =>
    obtain ⟨a, b⟩ := p
    simp only [Memory.set]
    split
    · simp [Memory.get]
    · split
      · simp_all [Memory.get]
      · simp_all [Memory.get]

theorem Memory.get_set_other (m : Memory) (i j : Nat) (v : Byte) (h : j ≠ i) : (m.set i v).get j = m.get j := by
  induction m with
  | nil =>
    simp only [Memory.set, Memory.get]
    split <;> simp_all
  | cons p m ih =>
    obtain ⟨a, b⟩ := p
    simp only [Memory.set]
    split
    · simp only [Memory.get, h, if_false]
      split
      · have : j ≠ a := by omega
        have : j < a := by omega
        simp_all
      · rfl
    · split
      · simp_all [Memory.get]
      · simp only [Memory.get, ih]

theorem Memory.get_writeFrom_before (d : List Byte) : ∀ (m : Memory) (a i : Nat), i < a → (m.writeFrom a d).get i = m.get i := by
  induction d with
  | nil => intros; rfl
  | cons b d ih =>
    intro m a i h
    rw [Memory.writeFrom, ih _ _ _ (by omega), Memory.get_set_other _ _ _ _ (by omega)]

/-- A byte written is the byte read. -/
theorem Memory.get_writeFrom_inside (d : List Byte) :
    ∀ (m : Memory) (a i : Nat) (h : i < d.length), (m.writeFrom a d).get (a + i) = some d[i] := by
  induction d with
  | nil => intro m a i h; simp at h
  | cons b d ih =>
    intro m a i h
    cases i with
    | zero => simp [Memory.writeFrom, Memory.get_writeFrom_before, Memory.get_set_same]
    | succ i =>
      have := ih (m.set a b) (a + 1) i (by simpa using h)
      simpa [Memory.writeFrom, Nat.add_assoc, Nat.add_comm 1 i] using this

/-- A byte beyond those written is as before. -/
theorem Memory.get_writeFrom_after (d : List Byte) :
    ∀ (m : Memory) (a i : Nat), a + d.length ≤ i → (m.writeFrom a d).get i = m.get i := by
  induction d with
  | nil => intros; rfl
  | cons b d ih =>
    intro m a i h
    simp only [List.length_cons] at h
    rw [Memory.writeFrom, ih _ _ _ (by omega), Memory.get_set_other _ _ _ _ (by omega)]

theorem Memory.wf_tail (p : Host.Cell) (m : Memory) (h : Memory.wf (p :: m) = true) : m.wf = true := by
  cases m with
  | nil => rfl
  | cons q m => simp only [Memory.wf, Bool.and_eq_true] at h; exact h.2

theorem Memory.set_cons_wf (m : Memory) (a : Nat) (b : Byte) (i : Nat) (v : Byte) (hi : a < i)
    (h : Memory.wf ((a, b) :: m) = true) (ht : (m.set i v).wf = true) : Memory.wf ((a, b) :: m.set i v) = true := by
  cases m with
  | nil => simp [Memory.set, Memory.wf, hi]
  | cons q m =>
    obtain ⟨a', b'⟩ := q
    have ha : a < a' := by simp only [Memory.wf, Bool.and_eq_true, decide_eq_true_eq] at h; exact h.1
    revert ht
    simp only [Memory.set]
    split
    · intro ht; simp only [Memory.wf, Bool.and_eq_true, decide_eq_true_eq] at ht ⊢; exact ⟨hi, ht⟩
    · split
      · intro ht
        cases m with
        | nil => simp [Memory.wf, ha]
        | cons r m => simp only [Memory.wf, Bool.and_eq_true, decide_eq_true_eq] at ht ⊢; exact ⟨ha, ht⟩
      · intro ht
        generalize Memory.set m i v = m' at ht ⊢
        cases m' with
        | nil => simp [Memory.wf, ha]
        | cons r m' => simp only [Memory.wf, Bool.and_eq_true, decide_eq_true_eq] at ht ⊢; exact ⟨ha, ht⟩

/-- A write keeps the canonical form. -/
theorem Memory.set_wf (m : Memory) (i : Nat) (v : Byte) (h : m.wf = true) : (m.set i v).wf = true := by
  induction m with
  | nil => rfl
  | cons p m ih =>
    obtain ⟨a, b⟩ := p
    have iht := ih (Memory.wf_tail _ _ h)
    simp only [Memory.set]
    split
    · rename_i hlt; simp only [Memory.wf, Bool.and_eq_true, decide_eq_true_eq]; exact ⟨hlt, h⟩
    · split
      · cases m with
        | nil => rfl
        | cons q m => simpa [Memory.wf] using h
      · exact Memory.set_cons_wf m a b i v (by omega) h iht

/-- A FRAME transfer keeps the canonical form. -/
theorem Memory.writeFrom_wf (d : List Byte) : ∀ (m : Memory) (a : Nat), m.wf = true → (m.writeFrom a d).wf = true := by
  induction d with
  | nil => intro m a h; exact h
  | cons b d ih => intro m a h; exact ih _ _ (Memory.set_wf _ _ _ h)

theorem Memory.set_below (n : Nat) (m : Memory) (i : Nat) (v : Byte) (hi : i < n) (h : m.below n = true) :
    (m.set i v).below n = true := by
  induction m with
  | nil => simp [Memory.set, Memory.below, hi]
  | cons p m ih =>
    obtain ⟨a, b⟩ := p
    simp only [Memory.below, List.all_cons, Bool.and_eq_true, decide_eq_true_eq] at h
    simp only [Memory.set]
    split
    · simp only [Memory.below, List.all_cons, Bool.and_eq_true, decide_eq_true_eq]; exact ⟨hi, h.1, h.2⟩
    · split
      · simp only [Memory.below, List.all_cons, Bool.and_eq_true, decide_eq_true_eq]; exact ⟨h.1, h.2⟩
      · have := ih h.2
        simp only [Memory.below, List.all_cons, Bool.and_eq_true, decide_eq_true_eq] at this ⊢
        exact ⟨h.1, this⟩

theorem Memory.writeFrom_below (n : Nat) (d : List Byte) :
    ∀ (m : Memory) (a : Nat), a + d.length ≤ n → m.below n = true → (m.writeFrom a d).below n = true := by
  induction d with
  | nil => intro m a _ h; exact h
  | cons b d ih =>
    intro m a hn h
    simp only [List.length_cons] at hn
    exact ih _ _ (by omega) (Memory.set_below n m a b (by omega) h)

theorem State.reset_fb_wf : State.reset.fb.wf = true := rfl

/-- A state's host write keeps FB canonical, whatever it answers. -/
theorem State.hostWrite_fb_wf (s t : State) (a : Nat) (b : Byte) (h : s.fb.wf = true)
    (hs : State.hostWrite a b s = .next t) : t.fb.wf = true := by
  unfold State.hostWrite at hs
  split at hs
  · split at hs <;> (cases hs; exact Memory.set_wf _ _ _ h)
  · cases hs

end Sys2Proof.Machine
end

