-- ==== Sys2Proof/Laws/PerInstr.lean ====
section
/-! SUPPORT. Laws stated of every operation and proved one operation at a time. -/

namespace Sys2Proof

/-- The table's format of an operation, as its word's first byte carries it (log 10). -/
def Laws.EncodedHead.format : Instr → Byte
  | .inFrame _ _ | .inFrameOversize _ | .inEmpty | .inFatal _ | .inReserved => 0
  | .stop => 1
  | .outAccept => 2
  | .reset => 3
  | .chainResolve => 4
  | .ethResolve | .ipv4Resolve | .tcpResolve => 5
  | .ethDst | .ethSrc | .ethEthertype => 6
  | .ipVersion | .ipIhl | .ipLen | .ipTos | .ipTotalLength | .ipIdentification => 7
  | .ipTtl | .ipProtocol | .ipChecksum | .ipSaddr | .ipDaddr => 7
  | .tcpSport | .tcpDport | .tcpSeq | .tcpAckNum | .tcpDoff | .tcpLen => 8
  | .tcpUrg | .tcpAck | .tcpPsh | .tcpRst | .tcpSyn | .tcpFin => 8
  | .tcpWindow | .tcpChecksum | .tcpUrgPtr => 8

/-- An operation's word begins with the byte of its table format. -/
def Laws.EncodedHead.Statement (i : Instr) : Prop :=
  ∀ c : Params, (encode c i).head? = some (Laws.EncodedHead.format i)

theorem Laws.EncodedHead.inFrame (len : Nat) (data : List Byte) : Laws.EncodedHead.Statement (.inFrame len data) := fun _ => rfl
theorem Laws.EncodedHead.inFrameOversize (len : Nat) : Laws.EncodedHead.Statement (.inFrameOversize len) := fun _ => rfl
theorem Laws.EncodedHead.inEmpty : Laws.EncodedHead.Statement .inEmpty := fun _ => rfl
theorem Laws.EncodedHead.inFatal (cause : Nat) : Laws.EncodedHead.Statement (.inFatal cause) := fun _ => rfl
theorem Laws.EncodedHead.inReserved : Laws.EncodedHead.Statement .inReserved := fun _ => rfl
theorem Laws.EncodedHead.stop : Laws.EncodedHead.Statement .stop := fun _ => rfl
theorem Laws.EncodedHead.outAccept : Laws.EncodedHead.Statement .outAccept := fun _ => rfl
theorem Laws.EncodedHead.reset : Laws.EncodedHead.Statement .reset := fun _ => rfl
theorem Laws.EncodedHead.chainResolve : Laws.EncodedHead.Statement .chainResolve := fun _ => rfl
theorem Laws.EncodedHead.ethResolve : Laws.EncodedHead.Statement .ethResolve := fun _ => rfl
theorem Laws.EncodedHead.ipv4Resolve : Laws.EncodedHead.Statement .ipv4Resolve := fun _ => rfl
theorem Laws.EncodedHead.tcpResolve : Laws.EncodedHead.Statement .tcpResolve := fun _ => rfl
theorem Laws.EncodedHead.ethDst : Laws.EncodedHead.Statement .ethDst := fun _ => rfl
theorem Laws.EncodedHead.ethSrc : Laws.EncodedHead.Statement .ethSrc := fun _ => rfl
theorem Laws.EncodedHead.ethEthertype : Laws.EncodedHead.Statement .ethEthertype := fun _ => rfl
theorem Laws.EncodedHead.ipVersion : Laws.EncodedHead.Statement .ipVersion := fun _ => rfl
theorem Laws.EncodedHead.ipIhl : Laws.EncodedHead.Statement .ipIhl := fun _ => rfl
theorem Laws.EncodedHead.ipLen : Laws.EncodedHead.Statement .ipLen := fun _ => rfl
theorem Laws.EncodedHead.ipTos : Laws.EncodedHead.Statement .ipTos := fun _ => rfl
theorem Laws.EncodedHead.ipTotalLength : Laws.EncodedHead.Statement .ipTotalLength := fun _ => rfl
theorem Laws.EncodedHead.ipIdentification : Laws.EncodedHead.Statement .ipIdentification := fun _ => rfl
theorem Laws.EncodedHead.ipTtl : Laws.EncodedHead.Statement .ipTtl := fun _ => rfl
theorem Laws.EncodedHead.ipProtocol : Laws.EncodedHead.Statement .ipProtocol := fun _ => rfl
theorem Laws.EncodedHead.ipChecksum : Laws.EncodedHead.Statement .ipChecksum := fun _ => rfl
theorem Laws.EncodedHead.ipSaddr : Laws.EncodedHead.Statement .ipSaddr := fun _ => rfl
theorem Laws.EncodedHead.ipDaddr : Laws.EncodedHead.Statement .ipDaddr := fun _ => rfl
theorem Laws.EncodedHead.tcpSport : Laws.EncodedHead.Statement .tcpSport := fun _ => rfl
theorem Laws.EncodedHead.tcpDport : Laws.EncodedHead.Statement .tcpDport := fun _ => rfl
theorem Laws.EncodedHead.tcpSeq : Laws.EncodedHead.Statement .tcpSeq := fun _ => rfl
theorem Laws.EncodedHead.tcpAckNum : Laws.EncodedHead.Statement .tcpAckNum := fun _ => rfl
theorem Laws.EncodedHead.tcpDoff : Laws.EncodedHead.Statement .tcpDoff := fun _ => rfl
theorem Laws.EncodedHead.tcpLen : Laws.EncodedHead.Statement .tcpLen := fun _ => rfl
theorem Laws.EncodedHead.tcpUrg : Laws.EncodedHead.Statement .tcpUrg := fun _ => rfl
theorem Laws.EncodedHead.tcpAck : Laws.EncodedHead.Statement .tcpAck := fun _ => rfl
theorem Laws.EncodedHead.tcpPsh : Laws.EncodedHead.Statement .tcpPsh := fun _ => rfl
theorem Laws.EncodedHead.tcpRst : Laws.EncodedHead.Statement .tcpRst := fun _ => rfl
theorem Laws.EncodedHead.tcpSyn : Laws.EncodedHead.Statement .tcpSyn := fun _ => rfl
theorem Laws.EncodedHead.tcpFin : Laws.EncodedHead.Statement .tcpFin := fun _ => rfl
theorem Laws.EncodedHead.tcpWindow : Laws.EncodedHead.Statement .tcpWindow := fun _ => rfl
theorem Laws.EncodedHead.tcpChecksum : Laws.EncodedHead.Statement .tcpChecksum := fun _ => rfl
theorem Laws.EncodedHead.tcpUrgPtr : Laws.EncodedHead.Statement .tcpUrgPtr := fun _ => rfl

end Sys2Proof
end

