-- ==== Sys2Proof/Laws/Step.lean ====
section
/-! SUPPORT. Everything an operation and a step can do, said once. -/

namespace Sys2Proof.Machine

/-- Every frame has a resolution. -/
theorem chainResolve_some (f : Frame) : ∃ r c, chainResolve f = some (r, c) := by
  rcases chainResolve_cases f with ⟨_, h⟩ | ⟨_, _, h⟩ | ⟨_, _, h⟩ | ⟨_, _, _, h⟩ | ⟨_, _, _, _, h⟩ | ⟨_, _, _, _, _, h⟩ |
    ⟨_, _, _, _, _, h⟩
  all_goals try exact ⟨_, _, h⟩
  rcases chainAfterIpv4_cases f with ⟨_, h'⟩ | ⟨_, r, h', _⟩
  all_goals exact ⟨_, _, h.trans h'⟩

/-- What a chain, stage or accessor operation may write (R25, R34, R41, log 9): RES, the sequencer, the returned value, one mark. -/
def State.ResolverWrote (s t : State) : Prop :=
  t = { s with
    res := t.res
    stage := t.stage
    cur := t.cur
    ret := t.ret
    faults := { s.faults with readBeyondFrame := t.faults.readBeyondFrame } } ∧
  (s.faults.readBeyondFrame = true → t.faults.readBeyondFrame = true)

theorem State.ResolverWrote.self (s : State) : s.ResolverWrote s := ⟨rfl, id⟩

theorem State.putEth_wrote {α : Type} (s : State) (x : Option α) (put : EthView → α → EthView) :
    s.ResolverWrote (s.putEth x put) := by
  rcases s.putEth_cases x put with ⟨_, h⟩ | ⟨_, h⟩ | ⟨_, _, _, _, h⟩ <;> rw [h] <;> exact ⟨rfl, by simp⟩

theorem State.putIp_wrote {α : Type} (s : State) (x : IpView → Option α) (put : IpView → α → IpView) :
    s.ResolverWrote (s.putIp x put) := by
  rcases s.putIp_cases x put with ⟨_, h⟩ | ⟨_, _, _, h⟩ | ⟨_, _, _, _, h⟩ <;> rw [h] <;> exact ⟨rfl, by simp⟩

theorem State.putTcp_wrote {α : Type} (s : State) (x : TcpView → Option α) (put : TcpView → α → TcpView) :
    s.ResolverWrote (s.putTcp x put) := by
  rcases s.putTcp_cases x put with ⟨_, h⟩ | ⟨_, _, _, h⟩ | ⟨_, _, _, _, h⟩ <;> rw [h] <;> exact ⟨rfl, by simp⟩

theorem State.putReturn_wrote (s : State) (stage : SeqStage) (cur : Nat) (r : Option Returned) :
    s.ResolverWrote (s.putReturn stage cur r) := by
  cases r <;> exact ⟨rfl, by simp [State.putReturn]⟩

theorem State.putResolution_wrote (s : State) (r : Option (Res × BitVec 7)) : s.ResolverWrote (s.putResolution r) := by
  cases r <;> exact ⟨rfl, by simp [State.putResolution]⟩

theorem State.resolverStep_wrote (s t u : State) (h : s.resolverStep t = .next u) (ht : s.ResolverWrote t) : s.ResolverWrote u := by
  rcases s.resolverStep_eq t u h with rfl | rfl
  · exact ht
  · exact .self _

/-- Every chain, stage or accessor operation writes no more than `ResolverWrote` says. -/
theorem exec_resolver_wrote (i : Instr) (s t : State) (hi : i.levels = none) (h : exec i s = .next t) : s.ResolverWrote t := by
  cases i with
  | chainResolve => exact s.resolverStep_wrote _ _ h (s.putResolution_wrote _)
  | ethResolve => exact s.resolverStep_wrote _ _ h (s.putReturn_wrote _ _ _)
  | ipv4Resolve =>
    simp only [exec, execIpv4Resolve] at h
    split at h
    · exact s.resolverStep_wrote _ _ h (s.putReturn_wrote _ _ _)
    · cases h; exact .self _
  | tcpResolve =>
    simp only [exec, execTcpResolve] at h
    split at h
    · cases h; exact .self _
    · exact s.resolverStep_wrote _ _ h (s.putReturn_wrote _ _ _)
  | _ =>
    first
    | exact s.resolverStep_wrote _ _ h (s.putEth_wrote _ _)
    | exact s.resolverStep_wrote _ _ h (s.putIp_wrote _ _)
    | exact s.resolverStep_wrote _ _ h (s.putTcp_wrote _ _)
    | simp [Instr.levels] at hi

/-- An IN_FRAME that is transferred. -/
theorem exec_inFrame (s : State) (len : Nat) (data : List Byte) (hr : s.inReady = true) (hl : len ≤ s.cfg.maxFrameLen) :
    ∃ r c, chainResolve { fb := s.fb.writeFrom 0 (data.take len), len := len } = some (r, c) ∧
      exec (.inFrame len data) s = .next { s with
        fb := s.fb.writeFrom 0 (data.take len)
        flen := len
        res := r
        ctl := .processing
        stage := .done
        cur := c } := by
  obtain ⟨r, c, h⟩ := chainResolve_some { fb := s.fb.writeFrom 0 (data.take len), len := len }
  have hw : s.ctl = .waiting := by simp [State.inReady] at hr; exact hr.1
  refine ⟨r, c, h, ?_⟩
  simp [exec, execInFrame, hr, hl, execChainResolve, State.resolverStep, State.running, State.loadFrame, hw, State.frame, h,
    State.putResolution]

/-- Every control transaction leaves the state alone or does its one effect, under the condition its rule gives (R127 to R133, R158). -/
theorem exec_control_cases (i : Instr) (s t : State) (p : Levels) (hp : i.levels = some p) (h : exec i s = .next t) :
    t = s ∨
    (∃ len data r c, i = .inFrame len data ∧ s.inReady = true ∧ len ≤ s.cfg.maxFrameLen ∧
      chainResolve { fb := s.fb.writeFrom 0 (data.take len), len := len } = some (r, c) ∧
      t = { s with
        fb := s.fb.writeFrom 0 (data.take len)
        flen := len
        res := r
        ctl := .processing
        stage := .done
        cur := c }) ∨
    (∃ len, i = .inFrameOversize len ∧ s.inReady = true ∧ t = s.addRefusal .oversizeFrame) ∨
    (∃ cause, i = .inFatal cause ∧ s.inReady = true ∧ t = s.takeFatal cause) ∨
    (i = .inReserved ∧ s.inReady = true ∧ t = s.addRefusal .reservedInKind) ∨
    (i = .stop ∧ s.ctl = .waiting ∧ t = { s with ctl := .stopped }) ∨
    (i = .outAccept ∧ s.ctl = .processing ∧ t = s.acceptResult) ∨
    (i = .reset ∧ t = s.resetRegisters) := by
  cases i with
  | inFrame len data =>
    by_cases hc : s.inReady = true ∧ len ≤ s.cfg.maxFrameLen
    · obtain ⟨r, c, h1, h2⟩ := exec_inFrame s len data hc.1 hc.2
      rw [h2] at h
      cases h
      exact .inr (.inl ⟨len, data, r, c, rfl, hc.1, hc.2, h1, rfl⟩)
    · have hb : (s.inReady && decide (len ≤ s.cfg.maxFrameLen)) = false := by simpa using hc
      simp only [exec, execInFrame, hb] at h
      cases h
      exact .inl rfl
  | inFrameOversize len =>
    simp only [exec, execInFrameOversize] at h
    split at h <;> cases h
    · rename_i hc; simp at hc; exact .inr (.inr (.inl ⟨len, rfl, hc.1, rfl⟩))
    · exact .inl rfl
  | inEmpty => cases h; exact .inl rfl
  | inFatal cause =>
    simp only [exec, execInFatal] at h
    split at h <;> cases h
    · rename_i hc; exact .inr (.inr (.inr (.inl ⟨cause, rfl, hc, rfl⟩)))
    · exact .inl rfl
  | inReserved =>
    simp only [exec, execInReserved] at h
    split at h <;> cases h
    · rename_i hc; exact .inr (.inr (.inr (.inr (.inl ⟨rfl, hc, rfl⟩))))
    · exact .inl rfl
  | stop =>
    simp only [exec, execStop] at h
    split at h <;> cases h
    · rename_i hc; exact .inr (.inr (.inr (.inr (.inr (.inl ⟨rfl, hc, rfl⟩)))))
    · exact .inl rfl
  | outAccept =>
    simp only [exec, execOutAccept] at h
    split at h <;> cases h
    · rename_i hc; simp [State.outValid] at hc; exact .inr (.inr (.inr (.inr (.inr (.inr (.inl ⟨rfl, hc, rfl⟩))))))
    · exact .inl rfl
  | reset => cases h; exact .inr (.inr (.inr (.inr (.inr (.inr (.inr ⟨rfl, rfl⟩))))))
  | _ => simp [Instr.levels] at hp

/-- A turn of the parser changes the agenda and the levels only. -/
theorem State.parserTurn_eq (s u : State) (h : s.parserTurn = some u) : u = { s with agenda := u.agenda, pins := u.pins } := by
  unfold State.parserTurn at h
  split at h <;> cases h <;> rfl

/-- In a turn of the parser the step is the parser's. -/
theorem step_parserTurn (s u : State) (h : s.parserTurn = some u) : step s = runLevels u := by
  unfold State.parserTurn at h
  unfold step takeMove
  split at h <;> simp_all

/-- What a step is: a turn of the parser in which nothing is selected, one that runs an operation, a write of the Capture Source, or an
operation given by its word. -/
theorem step_cases (s t : State) (h : step s = .next t) :
    (∃ u, s.parserTurn = some u ∧ u.select = none ∧ t = u) ∨
    (∃ u i, s.parserTurn = some u ∧ u.select = some i ∧ exec i u = .next t) ∨
    (∃ a b rest, s.agenda = .fbWrite a b :: rest ∧ State.hostWrite a b { s with agenda := rest } = .next t) ∨
    (∃ w rest i, s.agenda = .operation w :: rest ∧ decode s.cfg w = .ok (i, []) ∧
      exec i (({ s with agenda := rest } : State).withPinsOf i) = .next t) := by
  cases hu : s.parserTurn with
  | some u =>
    rw [step_parserTurn s u hu] at h
    unfold runLevels at h
    split at h
    · rename_i hs; cases h; exact .inl ⟨_, rfl, hs, rfl⟩
    · rename_i i hs; exact .inr (.inl ⟨u, i, rfl, hs, h⟩)
  | none =>
    unfold State.parserTurn at hu
    unfold step takeMove at h
    split at h
    · rename_i ha; simp [ha] at hu
    · rename_i ha; simp [ha] at hu
    · rename_i a b rest ha; exact .inr (.inr (.inl ⟨a, b, rest, ha, h⟩))
    · rename_i w rest ha
      unfold runWord at h
      split at h
      · rename_i i hd; exact .inr (.inr (.inr ⟨w, rest, i, ha, hd, h⟩))
      · cases h
      · cases h

/-- A write of the Capture Source changes one byte, and while PROCESSING it adds its mark (R43). -/
theorem State.hostWrite_cases (s t : State) (a : Nat) (b : Byte) (h : State.hostWrite a b s = .next t) :
    a < s.cfg.maxFrameLen ∧
    ((s.ctl = .processing ∧ t = { s with fb := s.fb.set a b, faults := { s.faults with hostFbWriteBusy := true } }) ∨
     (s.ctl ≠ .processing ∧ t = { s with fb := s.fb.set a b })) := by
  unfold State.hostWrite at h
  split at h
  · rename_i ha
    split at h
    · rename_i hc; cases h; exact ⟨ha, .inl ⟨hc, rfl⟩⟩
    · rename_i hc; cases h; exact ⟨ha, .inr ⟨hc, rfl⟩⟩
  · cases h

end Sys2Proof.Machine
end

