-- ==== Sys2Proof/Tests/Slice0.lean ====
section
/-! SUPPORT. Tests. Expected values come from spec/95_test_vectors.md (the vector is named) or from the encodings of spec/30_encoding.md,
written out by hand; then, for each statement with hypotheses, a state and operands that meet them. -/

open Sys2Proof Sys2Proof.Machine Sys2Proof.Claims

namespace Sys2Proof.Tests

/-- `ETH` of 95_test_vectors.md section 0. -/
def ethB : List Byte := [0x00, 0x11, 0x22, 0x33, 0x44, 0x55, 0x66, 0x77, 0x88, 0x99, 0xAA, 0xBB, 0x08, 0x00]

/-- `IP5` of 95_test_vectors.md section 0. -/
def ip5 : List Byte :=
  [0x45, 0x00, 0x00, 0x28, 0x1C, 0x46, 0x40, 0x00, 0x40, 0x06, 0x9C, 0xD0, 0xC0, 0xA8, 0x00, 0x68, 0xC0, 0xA8, 0x00, 0x01]

/-- `TCP5` of 95_test_vectors.md section 0. -/
def tcp5 : List Byte :=
  [0xD4, 0x31, 0x00, 0x50, 0x12, 0x34, 0x56, 0x78, 0x00, 0x00, 0x00, 0x00, 0x50, 0x02, 0xFA, 0xF0, 0xF6, 0x09, 0x00, 0x00]

/-- Memory that holds `d` from address `a`, written out as cells. -/
def cells : Nat → List Byte → Memory
  | _, [] => []
  | a, b :: d => (a, b) :: cells (a + 1) d

/-- The frame whose bytes are `d`. -/
def frameOf (d : List Byte) : Frame := { fb := cells 0 d, len := d.length }

/-- A machine in WAITING whose FB and FLEN hold the frame `d`. -/
def holding (d : List Byte) : State := { State.reset with fb := cells 0 d, flen := d.length }

/-- The state after an operation, if there is one. -/
def nextOf (o : Host.Outcome State Fault Refusal) : Option State :=
  match o with
  | .next s => some s
  | .fault _ => none
  | .refused _ => none

/-- The result of a frame. -/
def resOf (d : List Byte) : Option Res := (chainResolve (frameOf d)).map Prod.fst

/-- A result's presence bits, error and end, as the vector tables list them. -/
def outcome (d : List Byte) : Option (Bool × Bool × Bool × Option ErrRec × ChainEnd) :=
  (resOf d).map (fun r => (r.ethOk, r.ipOk, r.tcpOk, r.err, r.chainEnd))

/-- The six flags URG, ACK, PSH, RST, SYN, FIN of a frame's TCP view. -/
def flags (d : List Byte) : Option (List Bool) :=
  ((resOf d).bind (fun r => r.tcp)).map (fun v => [v.urg, v.ack, v.psh, v.rst, v.syn, v.fin])

/-- The Ethernet view of V1. -/
def v1Eth : EthView := { dst := 0x001122334455, src := 0x66778899AABB, ethertype := 0x0800 }

/-- The IPv4 view of V1. -/
def v1Ip : IpView :=
  { len := 20, version := 4, ihl := 5, tos := 0, totalLength := 40, identification := 0x1C46, ttl := 64, protocol := 6,
    checksum := 0x9CD0, saddr := 0xC0A80068, daddr := 0xC0A80001 }

/-- The TCP view of V1. -/
def v1Tcp : TcpView :=
  { off := 34, len := 20, sport := 54321, dport := 80, seq := 0x12345678, ackNum := 0, doff := 5, urg := false, ack := false,
    psh := false, rst := false, syn := true, fin := false, window := 64240, checksum := 0xF609, urgPtr := 0 }

/-- RES of V1. -/
def v1Res : Res := { frameLen := 54, eth := some v1Eth, ip := some v1Ip, tcp := some v1Tcp, err := none, chainEnd := .complete }

/-- The frame of V1. -/
def v1 : List Byte := ethB ++ ip5 ++ tcp5

/-- PROCESSING with V1's frame and result. -/
def pending : State := { holding v1 with ctl := .processing, res := v1Res, stage := .done, cur := 34 }

/-- PROCESSING with a frame that differs from V1's in every byte an accessor reads, and V1's views: an accessor must write. -/
def stale : State := { pending with fb := cells 0 (v1.map (fun b => b ^^^ 0xFF)) }

/-- A machine whose `MAX_FRAME_LEN` is 2. -/
def tiny : State := { State.reset with cfg := { maxFrameLen := 2, causeW := 3 } }

/-! ### WellFormed: one ill-formed term for each check -/

theorem test_wf_frame_too_long : (Instr.inFrame 3 [1, 2, 3]).wf tiny.cfg = false := by decide
theorem test_wf_frame_bytes_missing : (Instr.inFrame 2 [1]).wf tiny.cfg = false := by decide
theorem test_wf_frame_bytes_over : (Instr.inFrame 1 [1, 2]).wf tiny.cfg = false := by decide
theorem test_wf_oversize_not_over : (Instr.inFrameOversize 2).wf tiny.cfg = false := by decide
theorem test_wf_oversize_too_wide : (Instr.inFrameOversize 4).wf tiny.cfg = false := by decide
theorem test_wf_cause_too_wide : (Instr.inFatal 8).wf tiny.cfg = false := by decide
theorem test_wf_accepts : (Instr.inFrame 2 [1, 2]).wf tiny.cfg = true ∧ (Instr.inFrame 0 []).wf tiny.cfg = true ∧
    (Instr.inFrameOversize 3).wf tiny.cfg = true ∧ (Instr.inFatal 7).wf tiny.cfg = true ∧ Instr.stop.wf tiny.cfg = true := by decide

/-! ### Decoding: words written out from R59 to R62, R67, R76, R77 -/

theorem test_decode_inFrame : decode Params.default [0, 0b00, 0, 0, 3, 1, 2, 3] = .ok (.inFrame 3 [1, 2, 3], []) := by decide
theorem test_decode_inFrameOversize : decode Params.default [0, 0b00, 0x01, 0x11, 0x70] = .ok (.inFrameOversize 70000, []) := by decide
theorem test_decode_inEmpty : decode Params.default [0, 0b01] = .ok (.inEmpty, []) := by decide
theorem test_decode_inFatal : decode Params.default [0, 0b10, 0, 0, 0, 7] = .ok (.inFatal 7, []) := by decide
theorem test_decode_inReserved : decode Params.default [0, 0b11] = .ok (.inReserved, []) := by decide
theorem test_decode_stop : decode Params.default [1, 1] = .ok (.stop, []) := by decide
theorem test_decode_outAccept : decode Params.default [2, 1] = .ok (.outAccept, []) := by decide
theorem test_decode_reset : decode Params.default [3, 1] = .ok (.reset, []) := by decide
theorem test_decode_chainResolve : decode Params.default [4] = .ok (.chainResolve, []) := by decide
theorem test_decode_ethResolve : decode Params.default [5, 0] = .ok (.ethResolve, []) := by decide
theorem test_decode_ipv4Resolve : decode Params.default [5, 1, 0x08, 0x00] = .ok (.ipv4Resolve, []) := by decide
theorem test_decode_tcpResolve : decode Params.default [5, 2, 6] = .ok (.tcpResolve, []) := by decide
theorem test_decode_ethDst : decode Params.default [6, 0, 6, 47, 0, 48] = .ok (.ethDst, []) := by decide
theorem test_decode_ethSrc : decode Params.default [6, 6, 6, 47, 0, 48] = .ok (.ethSrc, []) := by decide
theorem test_decode_ethEthertype : decode Params.default [6, 12, 2, 15, 0, 16] = .ok (.ethEthertype, []) := by decide
theorem test_decode_ipVersion : decode Params.default [7, 0, 1, 7, 4, 4] = .ok (.ipVersion, []) := by decide
theorem test_decode_ipIhl : decode Params.default [7, 0, 1, 3, 0, 4] = .ok (.ipIhl, []) := by decide
theorem test_decode_ipLen : decode Params.default [7, 0, 1, 3, 0, 6] = .ok (.ipLen, []) := by decide
theorem test_decode_ipTos : decode Params.default [7, 1, 1, 7, 0, 8] = .ok (.ipTos, []) := by decide
theorem test_decode_ipTotalLength : decode Params.default [7, 2, 2, 15, 0, 16] = .ok (.ipTotalLength, []) := by decide
theorem test_decode_ipIdentification : decode Params.default [7, 4, 2, 15, 0, 16] = .ok (.ipIdentification, []) := by decide
theorem test_decode_ipTtl : decode Params.default [7, 8, 1, 7, 0, 8] = .ok (.ipTtl, []) := by decide
theorem test_decode_ipProtocol : decode Params.default [7, 9, 1, 7, 0, 8] = .ok (.ipProtocol, []) := by decide
theorem test_decode_ipChecksum : decode Params.default [7, 10, 2, 15, 0, 16] = .ok (.ipChecksum, []) := by decide
theorem test_decode_ipSaddr : decode Params.default [7, 12, 4, 31, 0, 32] = .ok (.ipSaddr, []) := by decide
theorem test_decode_ipDaddr : decode Params.default [7, 16, 4, 31, 0, 32] = .ok (.ipDaddr, []) := by decide
theorem test_decode_tcpSport : decode Params.default [8, 0, 2, 15, 0, 16] = .ok (.tcpSport, []) := by decide
theorem test_decode_tcpDport : decode Params.default [8, 2, 2, 15, 0, 16] = .ok (.tcpDport, []) := by decide
theorem test_decode_tcpSeq : decode Params.default [8, 4, 4, 31, 0, 32] = .ok (.tcpSeq, []) := by decide
theorem test_decode_tcpAckNum : decode Params.default [8, 8, 4, 31, 0, 32] = .ok (.tcpAckNum, []) := by decide
theorem test_decode_tcpDoff : decode Params.default [8, 12, 1, 7, 4, 4] = .ok (.tcpDoff, []) := by decide
theorem test_decode_tcpLen : decode Params.default [8, 12, 1, 7, 4, 6] = .ok (.tcpLen, []) := by decide
theorem test_decode_tcpUrg : decode Params.default [8, 13, 1, 5, 5, 1] = .ok (.tcpUrg, []) := by decide
theorem test_decode_tcpAck : decode Params.default [8, 13, 1, 4, 4, 1] = .ok (.tcpAck, []) := by decide
theorem test_decode_tcpPsh : decode Params.default [8, 13, 1, 3, 3, 1] = .ok (.tcpPsh, []) := by decide
theorem test_decode_tcpRst : decode Params.default [8, 13, 1, 2, 2, 1] = .ok (.tcpRst, []) := by decide
theorem test_decode_tcpSyn : decode Params.default [8, 13, 1, 1, 1, 1] = .ok (.tcpSyn, []) := by decide
theorem test_decode_tcpFin : decode Params.default [8, 13, 1, 0, 0, 1] = .ok (.tcpFin, []) := by decide
theorem test_decode_tcpWindow : decode Params.default [8, 14, 2, 15, 0, 16] = .ok (.tcpWindow, []) := by decide
theorem test_decode_tcpChecksum : decode Params.default [8, 16, 2, 15, 0, 16] = .ok (.tcpChecksum, []) := by decide
theorem test_decode_tcpUrgPtr : decode Params.default [8, 18, 2, 15, 0, 16] = .ok (.tcpUrgPtr, []) := by decide
theorem test_decode_reads_its_own_bytes : decode Params.default [0, 0b01, 0xFF, 1] = .ok (.inEmpty, [0xFF, 1]) := by decide
theorem test_decode_longest : decode tiny.cfg [0, 0b00, 2, 0xAA, 0xBB] = .ok (.inFrame 2 [0xAA, 0xBB], []) := by decide
theorem test_reject_empty : decode Params.default [] = .error .emptyWord := by decide
theorem test_reject_format : decode Params.default [9] = .error .unknownFormat := by decide
theorem test_reject_kind : decode Params.default [0, 4] = .error .unknownSelector := by decide
theorem test_reject_level_zero : decode Params.default [1, 0] = .error .unknownSelector := by decide
theorem test_reject_swapped_ethertype : decode Params.default [5, 1, 0x00, 0x08] = .error .unknownSelector := by decide
theorem test_reject_udp : decode Params.default [5, 2, 17] = .error .unknownSelector := by decide
theorem test_reject_field : decode Params.default [8, 13, 1, 6, 6, 1] = .error .unknownSelector := by decide
theorem test_reject_operand : decode Params.default [0, 0b00, 0] = .error .operandMissing := by decide
theorem test_reject_frame_bytes : decode Params.default [0, 0b00, 0, 0, 2, 1] = .error .frameBytesMissing := by decide
theorem test_reject_length : decode Params.default [0, 0b00, 2, 0, 0] = .error .lengthTooWide := by decide
theorem test_reject_cause : decode tiny.cfg [0, 0b10, 8] = .error .causeTooWide := by decide

/-- No two accessors share a word. -/
theorem test_accessor_words_differ : (accessors.map accessorWord).Pairwise (fun a b => a ≠ b) := by decide

theorem test_table_word_ipv4 : decodeTableWord 16 0x0800 = some .ipv4Resolve := by decide
theorem test_table_word_tcp : decodeTableWord 8 6 = some .tcpResolve := by decide
theorem test_table_word_kinds : decodeTableWord 8 0 = some (.inFrame 0 []) ∧ decodeTableWord 8 1 = some .inEmpty ∧
    decodeTableWord 8 2 = some (.inFatal 0) ∧ decodeTableWord 8 3 = some .inReserved := by decide
theorem test_table_word_none : decodeTableWord 16 0x0008 = none ∧ decodeTableWord 8 17 = none := by decide
theorem test_fetch_runs_fatal : (nextOf (step (State.reset.withFetchWord 8 2))).map (fun t => t.ctl) = some .halted := by decide
theorem test_fetch_runs_frame : (nextOf (step (State.reset.withFetchWord 8 0))).map (fun t => t.res.err) =
    some (some (.truncated .ethernet 14 0)) := by decide
theorem test_fetch_refuses : step (State.reset.withFetchWord 8 17) = .refused (.notAnOperation .unknownSelector) := rfl

/-! ### Resolutions: the vectors of 95_test_vectors.md -/

theorem test_V1 : resOf v1 = some v1Res := by decide
theorem test_V2 : resOf (ethB ++ ip5) = some { frameLen := 34, eth := some v1Eth, ip := some v1Ip, tcp := none, err := some (.truncated .tcp 54 34), chainEnd := .error } := by decide
theorem test_V3 : outcome (ethB ++ (ip5.set 0 0x4F).set 9 0x11 ++ List.replicate 40 1) = some (true, true, false, none, .notTcpProtocol) := by decide
theorem test_E1 : outcome ([]) = some (false, false, false, some (.truncated .ethernet 14 0), .error) := by decide
theorem test_E2 : outcome (ethB.take 13) = some (false, false, false, some (.truncated .ethernet 14 13), .error) := by decide
theorem test_E3 : outcome (ethB.take 12 ++ [0x86, 0xDD]) = some (true, false, false, none, .notIpv4Ethertype) := by decide
theorem test_E4 : outcome (ethB) = some (true, false, false, some (.truncated .ipv4 34 14), .error) := by decide
theorem test_E5 : outcome (ethB.take 12 ++ [0x00, 0x08] ++ ip5 ++ tcp5) = some (true, false, false, none, .notIpv4Ethertype) := by decide
theorem test_E6 : outcome (ethB.take 12 ++ [0x81, 0x00] ++ ip5 ++ tcp5) = some (true, false, false, none, .notIpv4Ethertype) := by decide
theorem test_I1 : outcome (ethB ++ [0x45]) = some (true, false, false, some (.truncated .ipv4 34 15), .error) := by decide
theorem test_I2 : outcome (ethB ++ [0x44]) = some (true, false, false, some (.invalidLength .ipv4 4), .error) := by decide
theorem test_I3 : outcome (ethB ++ ip5.set 0 0x40 ++ tcp5) = some (true, false, false, some (.invalidLength .ipv4 0), .error) := by decide
theorem test_I4 : outcome (ethB ++ ip5.set 0 0x46) = some (true, false, false, some (.truncated .ipv4 38 34), .error) := by decide
theorem test_I5 : outcome (ethB ++ ip5.set 0 0x65 ++ tcp5) = some (true, false, false, none, .notIpv4Version) := by decide
theorem test_I6 : outcome (ethB ++ ip5.set 0 0x63) = some (true, false, false, some (.invalidLength .ipv4 3), .error) := by decide
theorem test_I7 : outcome (ethB ++ ip5.set 9 0x11) = some (true, true, false, none, .notTcpProtocol) := by decide
theorem test_I8 : outcome (ethB ++ ip5.set 0 0x54 ++ tcp5) = some (true, false, false, some (.invalidLength .ipv4 4), .error) := by decide
theorem test_T1 : outcome (ethB ++ ip5 ++ tcp5.take 12) = some (true, true, false, some (.truncated .tcp 54 46), .error) := by decide
theorem test_T2 : outcome (ethB ++ ip5 ++ tcp5.take 13) = some (true, true, false, some (.truncated .tcp 54 47), .error) := by decide
theorem test_T3 : outcome (ethB ++ ip5 ++ tcp5.set 12 0x40) = some (true, true, false, some (.invalidLength .tcp 4), .error) := by decide
theorem test_T4 : outcome (ethB ++ ip5 ++ tcp5.set 12 0x00) = some (true, true, false, some (.invalidLength .tcp 0), .error) := by decide
theorem test_T5 : outcome (ethB ++ ip5 ++ tcp5.set 12 0x60) = some (true, true, false, some (.truncated .tcp 58 54), .error) := by decide
theorem test_V3_len : ((resOf (ethB ++ (ip5.set 0 0x4F).set 9 0x11 ++ List.replicate 40 1)).bind (fun r => r.ip)).map
    (fun v => (v.len, v.ihl, v.totalLength)) = some (60, 15, 40) := by decide
theorem test_T6 : ((resOf (ethB ++ ip5 ++ tcp5.set 12 0x60 ++ [1, 1, 1, 0])).bind (fun r => r.tcp)).map (fun v => (v.off, v.len)) =
    some (34, 24) := by decide
theorem test_T7 : ((resOf (ethB ++ ip5.set 0 0x46 ++ [0, 0, 0, 0] ++ tcp5)).bind (fun r => r.tcp)).map (fun v => (v.off, v.len, v.sport)) =
    some (38, 20, 54321) := by decide
theorem test_T8a : flags (ethB ++ ip5 ++ tcp5.set 13 0x3F) = some [true, true, true, true, true, true] := by decide
theorem test_T8b : flags (ethB ++ ip5 ++ tcp5.set 13 0xC0) = some [false, false, false, false, false, false] := by decide
theorem test_T8c : flags (ethB ++ ip5 ++ tcp5.set 13 0x12) = some [false, true, false, false, true, false] := by decide
set_option maxRecDepth 8000 in
theorem test_T9 : (resOf (ethB ++ ip5.set 0 0x4F ++ List.replicate 40 1 ++ (tcp5.set 12 0xF0).set 13 0x18 ++ List.replicate 40 1)).map
    (fun r => (r.chainEnd, r.tcp.map (fun v => (v.off, v.len)))) = some (.complete, some (74, 60)) := by decide
set_option maxRecDepth 8000 in
theorem test_T10 : (resOf ((ethB ++ ip5.set 0 0x4F ++ List.replicate 40 1 ++ (tcp5.set 12 0xF0).set 13 0x18 ++ List.replicate 39 1))).map
    (fun r => r.err) = some (some (.truncated .tcp 134 133)) := by decide
theorem test_T11 : resOf (v1 ++ [0, 0, 0, 0, 0, 0]) = some { v1Res with frameLen := 60 } := by decide
theorem test_T12 : ((resOf (ethB ++ ip5 ++ tcp5.set 12 0x5F)).bind (fun r => r.tcp)).map (fun v => v.doff) = some 5 := by decide

/-- Stale bytes of a longer frame are not read (program P1, step 4). -/
theorem test_P1_stale : chainResolve { fb := cells 0 v1, len := 34 } = chainResolve (frameOf (ethB ++ ip5)) := by decide

/-! ### Stages and the chain as operations -/

theorem test_ethResolve : (nextOf (exec .ethResolve (holding (ethB.take 11)))).map (fun t => (t.ret, t.res)) =
    some (some (.eth (.fail (.truncated .ethernet 14 11))), Res.reset) := by decide
theorem test_ipv4Resolve : (nextOf (exec .ipv4Resolve pending)).map (fun t => (t.ret, t.stage, t.cur)) =
    some (some (.ip (.ok v1Ip)), .ipv4, 14) := by decide
theorem test_tcpResolve : (nextOf (exec .tcpResolve pending)).map (fun t => (t.ret, t.stage, t.cur)) =
    some (some (.tcp (.ok v1Tcp)), .tcp, 34) := by decide
theorem test_tcpResolve_not_selected : nextOf (exec .tcpResolve (holding v1)) = some (holding v1) := by decide
theorem test_chainResolve : (nextOf (exec .chainResolve (holding v1))).map (fun t => (t.res, t.stage, t.cur, t.ctl)) =
    some (v1Res, .done, 34, .waiting) := by decide
theorem test_spread : ((nextOf (State.chainSpread 3 (holding v1).chainStart)).map (fun t => (t.res, t.stage))) =
    some (v1Res, .done) := by decide

/-! ### Accessors: V1's bytes with every bit inverted, read into V1's views -/

theorem test_ethDst : ((nextOf (exec .ethDst stale)).bind (fun t => t.res.eth)).map (fun v => v.dst) = some 0xFFEEDDCCBBAA := by decide
theorem test_ethSrc : ((nextOf (exec .ethSrc stale)).bind (fun t => t.res.eth)).map (fun v => v.src) = some 0x998877665544 := by decide
theorem test_ethEthertype : ((nextOf (exec .ethEthertype stale)).bind (fun t => t.res.eth)).map (fun v => v.ethertype) = some 0xF7FF := by decide
theorem test_ipVersion : ((nextOf (exec .ipVersion stale)).bind (fun t => t.res.ip)).map (fun v => v.version) = some 11 := by decide
theorem test_ipIhl : ((nextOf (exec .ipIhl stale)).bind (fun t => t.res.ip)).map (fun v => v.ihl) = some 10 := by decide
theorem test_ipTos : ((nextOf (exec .ipTos stale)).bind (fun t => t.res.ip)).map (fun v => v.tos) = some 0xFF := by decide
theorem test_ipTotalLength : ((nextOf (exec .ipTotalLength stale)).bind (fun t => t.res.ip)).map (fun v => v.totalLength) = some 0xFFD7 := by decide
theorem test_ipIdentification : ((nextOf (exec .ipIdentification stale)).bind (fun t => t.res.ip)).map (fun v => v.identification) = some 0xE3B9 := by decide
theorem test_ipTtl : ((nextOf (exec .ipTtl stale)).bind (fun t => t.res.ip)).map (fun v => v.ttl) = some 0xBF := by decide
theorem test_ipProtocol : ((nextOf (exec .ipProtocol stale)).bind (fun t => t.res.ip)).map (fun v => v.protocol) = some 0xF9 := by decide
theorem test_ipChecksum : ((nextOf (exec .ipChecksum stale)).bind (fun t => t.res.ip)).map (fun v => v.checksum) = some 0x632F := by decide
theorem test_ipSaddr : ((nextOf (exec .ipSaddr stale)).bind (fun t => t.res.ip)).map (fun v => v.saddr) = some 0x3F57FF97 := by decide
theorem test_ipDaddr : ((nextOf (exec .ipDaddr stale)).bind (fun t => t.res.ip)).map (fun v => v.daddr) = some 0x3F57FFFE := by decide
theorem test_tcpSport : ((nextOf (exec .tcpSport stale)).bind (fun t => t.res.tcp)).map (fun v => v.sport) = some 0x2BCE := by decide
theorem test_tcpDport : ((nextOf (exec .tcpDport stale)).bind (fun t => t.res.tcp)).map (fun v => v.dport) = some 0xFFAF := by decide
theorem test_tcpSeq : ((nextOf (exec .tcpSeq stale)).bind (fun t => t.res.tcp)).map (fun v => v.seq) = some 0xEDCBA987 := by decide
theorem test_tcpAckNum : ((nextOf (exec .tcpAckNum stale)).bind (fun t => t.res.tcp)).map (fun v => v.ackNum) = some 0xFFFFFFFF := by decide
theorem test_tcpDoff : ((nextOf (exec .tcpDoff stale)).bind (fun t => t.res.tcp)).map (fun v => v.doff) = some 10 := by decide
theorem test_tcpUrg : ((nextOf (exec .tcpUrg stale)).bind (fun t => t.res.tcp)).map (fun v => v.urg) = some true := by decide
theorem test_tcpAck : ((nextOf (exec .tcpAck stale)).bind (fun t => t.res.tcp)).map (fun v => v.ack) = some true := by decide
theorem test_tcpPsh : ((nextOf (exec .tcpPsh stale)).bind (fun t => t.res.tcp)).map (fun v => v.psh) = some true := by decide
theorem test_tcpRst : ((nextOf (exec .tcpRst stale)).bind (fun t => t.res.tcp)).map (fun v => v.rst) = some true := by decide
theorem test_tcpSyn : ((nextOf (exec .tcpSyn stale)).bind (fun t => t.res.tcp)).map (fun v => v.syn) = some false := by decide
theorem test_tcpFin : ((nextOf (exec .tcpFin stale)).bind (fun t => t.res.tcp)).map (fun v => v.fin) = some true := by decide
theorem test_tcpWindow : ((nextOf (exec .tcpWindow stale)).bind (fun t => t.res.tcp)).map (fun v => v.window) = some 0x050F := by decide
theorem test_tcpChecksum : ((nextOf (exec .tcpChecksum stale)).bind (fun t => t.res.tcp)).map (fun v => v.checksum) = some 0x09F6 := by decide
theorem test_tcpUrgPtr : ((nextOf (exec .tcpUrgPtr stale)).bind (fun t => t.res.tcp)).map (fun v => v.urgPtr) = some 0xFFFF := by decide
theorem test_ipLen : ((nextOf (exec .ipLen { pending with res := { v1Res with ip := some { v1Ip with ihl := 15 } } })).bind (fun t => t.res.ip)).map
    (fun v => v.len) = some 60 := by decide
theorem test_tcpLen : ((nextOf (exec .tcpLen { pending with res := { v1Res with tcp := some { v1Tcp with doff := 15 } } })).bind
    (fun t => t.res.tcp)).map (fun v => v.len) = some 60 := by decide
/-- A field one byte beyond the frame is not read, although FB holds the byte (R41). -/
theorem test_read_beyond : (nextOf (exec .tcpUrgPtr { stale with flen := 53 })).map (fun t => (t.faults.readBeyondFrame, t.res)) =
    some (true, v1Res) := by decide

/-! ### Control: vectors K1 to K10 and the examples of R127 to R133, R158 -/

/-- R128's example, L = 0: a frame, not an EMPTY input. -/
theorem test_inFrame_zero : (nextOf (exec (.inFrame 0 []) State.reset)).map (fun t => (t.ctl, t.res.err)) =
    some (.processing, some (.truncated .ethernet 14 0)) := by decide
/-- R128: bytes at L and above keep their contents. -/
theorem test_inFrame_keeps : (nextOf (exec (.inFrame 2 [7, 8]) { tiny with fb := cells 0 [1, 2, 3] })).map (fun t => (t.fb, t.flen)) =
    some (cells 0 [7, 8, 3], 2) := by decide
theorem test_K1 : nextOf (exec .inEmpty State.reset) = some State.reset := by decide
theorem test_K2 : (nextOf (exec (.inFatal 7) State.reset)).map (fun t => (t.ctl, t.fatalCause, t.fatalOut, t.srcRelease)) =
    some (.halted, 7, true, true) := by decide
theorem test_K3 : (nextOf (runLevels { State.reset with pins := { Levels.idle with stopReq := true, inValid := true, inLen := 1, inData := [9] } })).map
    (fun t => (t.ctl, t.fb, t.srcRelease)) = some (.stopped, [], true) := by decide
theorem test_K4 : nextOf (runLevels { pending with pins := { Levels.idle with stopReq := true } }) =
    some { pending with pins := { Levels.idle with stopReq := true } } := by decide
theorem test_K5 : (nextOf (runLevels { State.reset with pins := { Levels.idle with inValid := true, inKind := 0b11 } })).map
    (fun t => (t.ctl, t.refused)) = some (.waiting, { reservedInKind := true, oversizeFrame := false }) := by decide
theorem test_K6 : (nextOf (runLevels { State.reset with pins := { Levels.idle with inValid := true, inLen := 70000 } })).map
    (fun t => (t.ctl, t.refused)) = some (.waiting, { reservedInKind := false, oversizeFrame := true }) := by decide
theorem test_K8 : (nextOf (exec .reset { pending with ctl := .halted, fatalCause := 3 })).map (fun t => (t.ctl, t.flen, t.fatalCause, t.res.eth)) =
    some (.waiting, 0, 0, none) := by decide
theorem test_K9 : (nextOf (step { pending with agenda := [.fbWrite 46 0x40] })).map
    (fun t => (t.ctl, t.res, t.fb.get 46, t.faults.hostFbWriteBusy)) = some (.processing, v1Res, some 0x40, true) := by decide
theorem test_K10 : (runLevels { State.reset with ctl := .stopped, pins := { Levels.idle with inValid := true } }) =
    .next { State.reset with ctl := .stopped, pins := { Levels.idle with inValid := true } } := rfl
/-- P3, steps 4 and 5: a `stop_req` still held stops the parser once it is back in WAITING. -/
theorem test_P3_held_stop : (nextOf (step { State.reset with pins := { Levels.idle with stopReq := true } })).map (fun t => t.ctl) =
    some .stopped := by decide
/-- An `out_ready` still held takes the result; an `rst` still held resets. -/
theorem test_held_levels : (nextOf (step { pending with pins := { Levels.idle with outReady := true } })).map (fun t => (t.ctl, t.emitted)) =
      some (.waiting, [v1Res]) ∧
    (nextOf (step { pending with ctl := .stopped, pins := { Levels.idle with rst := true } })).map (fun t => t.ctl) = some .waiting := by decide
theorem test_stop : (nextOf (exec .stop State.reset)).map (fun t => (t.ctl, t.stoppedOut)) = some (.stopped, true) := by decide
/-- R164: a stop while PROCESSING has no effect. -/
theorem test_stop_processing : nextOf (exec .stop pending) = some pending := by decide
theorem test_outAccept : (nextOf (exec .outAccept pending)).map (fun t => (t.ctl, t.outValid, t.emitted)) =
    some (.waiting, false, [v1Res]) := by decide
/-- R158: FB and the marks survive a reset. -/
theorem test_reset_keeps : (nextOf (exec .reset { pending with faults := { readBeyondFrame := false, hostFbWriteBusy := true } })).map
    (fun t => (t.fb, t.faults.hostFbWriteBusy)) = some (pending.fb, true) := by decide
theorem test_memory_write_sorts : Memory.writeFrom [(5, 1)] 4 [9, 8, 7] = [(4, 9), (5, 8), (6, 7)] := by decide
theorem test_reset_memory : Memory.wf State.reset.fb = true := by decide

/-! ### Witnesses: states and operands that meet the hypotheses of each statement -/

theorem wit_roundTrip : (Instr.inFrame 2 [1, 2]).wf tiny.cfg = true ∧ (Instr.inFrameOversize 131071).wf Params.default = true ∧
    (Instr.inFatal 4294967295).wf Params.default = true := by decide
theorem wit_decodedWellFormed : decode tiny.cfg [0, 0b00, 2, 5, 6, 7] = .ok (.inFrame 2 [5, 6], [7]) := by decide

/-- Levels that offer an input. -/
def offer (k : BitVec 2) (len cause : Nat) (d : List Byte) : Levels :=
  { Levels.idle with inValid := true, inKind := k, inLen := len, inCause := cause, inData := d }

/-- The premises that the clauses about a transferred input share. -/
def offered (s : State) : Bool :=
  s.ctl == .waiting && !s.pins.rst && !s.pins.stopReq && s.pins.inValid && decide (s.pins.inLen < 2 ^ s.cfg.lenW) &&
    decide (s.pins.inCause < 2 ^ s.cfg.causeW)

theorem wit_inKind_frame : offered { tiny with pins := offer 0 2 0 [1, 2] } = true ∧ 2 ≤ tiny.cfg.maxFrameLen := by decide
theorem wit_inKind_oversize : offered { tiny with pins := offer 0 3 0 [] } = true ∧ tiny.cfg.maxFrameLen < 3 := by decide
theorem wit_inKind_others : offered { tiny with pins := offer 1 0 0 [] } = true ∧ offered { tiny with pins := offer 2 0 7 [] } = true ∧
    offered { tiny with pins := offer 3 0 0 [] } = true := by decide
theorem wit_signals : (Instr.inFrame 2 [1, 2]).wf tiny.cfg = true ∧ (Instr.inFrame 2 [1, 2]).levels = some (offer 0 2 0 [1, 2]) ∧
    tiny.ctl = ctlFor (.inFrame 2 [1, 2]) tiny.ctl := by decide
theorem wit_signals_accept : Instr.outAccept.levels = some { Levels.idle with outReady := true } ∧
    pending.ctl = ctlFor .outAccept pending.ctl := by decide
theorem wit_priority : ({ pending with pins := { Levels.idle with rst := true, outReady := true } } : State).pins.rst = true ∧
    ({ State.reset with pins := { Levels.idle with stopReq := true, inValid := true } } : State).pins.stopReq = true ∧
    State.reset.ctl = .waiting ∧ pending.ctl = .processing := by decide
theorem wit_stepSelected : tiny.select = none ∧ ({ tiny with pins := offer 1 0 0 [] } : State).select = some .inEmpty ∧ tiny.agenda = [] ∧
    ({ tiny with agenda := [.levels Levels.idle] } : State).agenda = .levels Levels.idle :: [] := by decide
theorem wit_stepWord : ({ tiny with agenda := [.operation [4]] } : State).agenda = .operation [4] :: [] ∧
    decode tiny.cfg [4] = .ok (.chainResolve, []) ∧ Instr.chainResolve.wf tiny.cfg = true := by decide
theorem wit_placed : (Instr.inFatal 7).wf tiny.cfg = true ∧ Instr.tcpLen.wf tiny.cfg = true := by decide
theorem wit_held : pending.ctl = .processing ∧ pending.pins.rst = false ∧ pending.pins.outReady = false := by decide
theorem wit_waiting : State.reset.ctl = .waiting ∧ State.reset.pins.rst = false ∧ State.reset.pins.stopReq = false ∧
    State.reset.pins.inValid = false := by decide
theorem wit_inFrame : tiny.ctl = .waiting ∧ tiny.pins.stopReq = false ∧ 2 ≤ tiny.cfg.maxFrameLen ∧ ([1, 2] : List Byte).length = 2 := by
  decide
theorem wit_oversize : tiny.ctl = .waiting ∧ tiny.pins.stopReq = false ∧ tiny.cfg.maxFrameLen < 3 := by decide
theorem wit_emptyInput : offered { tiny with pins := offer 0b01 0 0 [] } = true := by decide
theorem wit_fatal_reserved : State.reset.ctl = .waiting ∧ State.reset.pins.stopReq = false := by decide
theorem wit_stop : State.reset.ctl = .waiting ∧ pending.ctl = .processing ∧
    ({ State.reset with pins := { Levels.idle with stopReq := true } } : State).pins.stopReq = true ∧
    ({ State.reset with pins := { Levels.idle with stopReq := true } } : State).pins.rst = false := by decide
theorem wit_accept : pending.ctl = .processing := by decide
theorem wit_inputsNeedReady : State.reset.inReady = true ∧ pending.inReady = false ∧
    ({ State.reset with pins := { Levels.idle with stopReq := true } } : State).inReady = false := by decide
theorem wit_terminal : ({ State.reset with ctl := .stopped } : State).ended = true ∧ ({ State.reset with ctl := .halted } : State).ended = true ∧
    State.reset.pins.rst = false ∧ Instr.stop ≠ .reset := by decide
theorem wit_table : ({ tiny with pins := offer 0 3 0 [] } : State).pins.inLen < 2 ^ tiny.cfg.lenW := by decide
theorem wit_stateChanges : (nextOf (step { State.reset with agenda := [.levels { Levels.idle with stopReq := true }] })).map (fun t => t.ctl) =
    some .stopped := by decide
theorem wit_hostWrite : ({ pending with agenda := [.fbWrite 65535 1] } : State).agenda = .fbWrite 65535 1 :: [] ∧
    65535 < pending.cfg.maxFrameLen ∧ pending.ctl = .processing ∧ State.reset.ctl ≠ .processing := by decide
theorem wit_hostWriteOutside : ({ tiny with agenda := [.fbWrite 2 1] } : State).agenda = .fbWrite 2 1 :: [] ∧ tiny.cfg.maxFrameLen ≤ 2 := by
  decide
theorem wit_ethResolve : (holding (ethB.take 13)).running = true ∧ (holding (ethB.take 13)).flen < 14 ∧ (holding ethB).running = true ∧
    ¬ (holding ethB).flen < 14 := by decide
theorem wit_ipv4Resolve : pending.running = true ∧ pending.res.eth = some v1Eth ∧ v1Eth.ethertype = 0x0800 := by decide
theorem wit_tcpResolve : pending.running = true ∧ pending.res.ip = some v1Ip ∧ v1Ip.protocol = 6 ∧ 34 = 14 + v1Ip.len.toNat := by decide
theorem wit_outsideCondition : State.reset.res.eth = none ∧ State.reset.res.ip = none ∧ State.reset.res.tcp = none ∧
    ({ v1Eth with ethertype := 0x0008 } : EthView).ethertype ≠ 0x0800 ∧ ({ v1Ip with protocol := 17 } : IpView).protocol ≠ 6 := by decide
theorem wit_chain_eth : (holding []).running = true ∧ ethStage (holding []).frame = some (.fail (.truncated .ethernet 14 0)) := by decide
theorem wit_chain_ethertype : ethStage (holding (ethB.set 13 1)).frame = some (.ok { v1Eth with ethertype := 0x0801 }) := by decide
theorem wit_chain_ip : ethStage (holding ethB).frame = some (.ok v1Eth) ∧
    ipv4Stage (holding ethB).frame = some (.fail (.truncated .ipv4 34 14)) := by decide
theorem wit_chain_version : ethStage (holding (ethB ++ ip5.set 0 0x65)).frame = some (.ok v1Eth) ∧
    ipv4Stage (holding (ethB ++ ip5.set 0 0x65)).frame = some .skip := by decide
theorem wit_chain_protocol : ethStage (holding (ethB ++ ip5.set 9 0x11)).frame = some (.ok v1Eth) ∧
    ipv4Stage (holding (ethB ++ ip5.set 9 0x11)).frame = some (.ok { v1Ip with protocol := 17 }) := by decide
theorem wit_chain_tcp : ethStage (holding (ethB ++ ip5)).frame = some (.ok v1Eth) ∧ ipv4Stage (holding (ethB ++ ip5)).frame = some (.ok v1Ip) ∧
    tcpStage (holding (ethB ++ ip5)).frame (14 + v1Ip.len.toNat) = some (.fail (.truncated .tcp 54 34)) := by decide
theorem wit_chain_complete : ethStage (holding v1).frame = some (.ok v1Eth) ∧ ipv4Stage (holding v1).frame = some (.ok v1Ip) ∧
    tcpStage (holding v1).frame (14 + v1Ip.len.toNat) = some (.ok v1Tcp) := by decide
theorem wit_resolved : chainResolve (frameOf v1) = some (v1Res, 34) := by decide
theorem wit_resolved_eth : chainResolve (frameOf []) = some ((Res.start 0).raise (.truncated .ethernet 14 0), 0) := by decide
theorem wit_resolved_ip : chainResolve (frameOf ethB) =
    some (({ Res.start 14 with eth := some v1Eth } : Res).raise (.truncated .ipv4 34 14), 14) := by decide
theorem wit_resolved_tcp : chainResolve (frameOf (ethB ++ ip5)) =
    some (({ Res.start 34 with eth := some v1Eth, ip := some v1Ip } : Res).raise (.truncated .tcp 54 34), 34) := by decide
theorem wit_resolved_words : chainResolve (frameOf (ethB ++ [0x44])) =
    some (({ Res.start 15 with eth := some v1Eth } : Res).raise (.invalidLength .ipv4 4), 14) := by decide
theorem wit_readInside : (nextOf (exec .chainResolve (holding ethB))).isSome = true ∧ (nextOf (exec (.inFrame 2 [1, 2]) tiny)).isSome = true := by
  decide
theorem wit_ignores : (⟨cells 0 [5, 6], 1⟩ : Frame).len = (⟨cells 0 [5, 7], 1⟩ : Frame).len ∧
    ∀ i, i < 1 → (⟨cells 0 [5, 6], 1⟩ : Frame).byteAt i = (⟨cells 0 [5, 7], 1⟩ : Frame).byteAt i := by decide
theorem wit_spread : State.reset.running = true ∧ pending.running = true := by decide
theorem wit_ethAccessors : pending.running = true ∧ pending.res.eth = some v1Eth ∧ 14 ≤ ({ pending with flen := 14 } : State).flen := by decide
theorem wit_ipAccessors : pending.running = true ∧ pending.res.ip = some v1Ip ∧ 34 ≤ ({ pending with flen := 34 } : State).flen := by decide
theorem wit_tcpAccessors : pending.running = true ∧ pending.res.ip = some v1Ip ∧ pending.res.tcp = some v1Tcp ∧ 34 = 14 + v1Ip.len.toNat ∧
    v1Tcp.off.toNat = 34 ∧ 34 + 20 ≤ pending.flen := by decide
theorem wit_tcpFlags : 34 = 14 + v1Ip.len.toNat ∧ v1Tcp.off.toNat = 34 ∧ 34 + 14 ≤ ({ pending with flen := 48 } : State).flen ∧
    (2 : Byte) = ({ pending with flen := 48 } : State).frame.byteAt (34 + 13) := by decide
theorem wit_bigEndian : 0 + 6 ≤ (frameOf (ethB.take 6)).len ∧ 40 + 14 ≤ (frameOf v1).len ∧ 7 < 8 := by decide
theorem wit_beyond_eth : (Instr.ethEthertype, 12, 2) ∈ ethSpans ∧ ({ pending with flen := 13 } : State).flen < 12 + 2 := by decide
theorem wit_beyond_ip : (Instr.ipDaddr, 30, 4) ∈ ipSpans ∧ ({ pending with flen := 33 } : State).flen < 30 + 4 := by decide
theorem wit_beyond_tcp : (Instr.tcpUrgPtr, 18, 2) ∈ tcpSpans ∧ ({ pending with flen := 53 } : State).flen < v1Tcp.off.toNat + 18 + 2 := by
  decide
theorem wit_agree : pending.running = true ∧ chainResolve pending.frame = some (pending.res, 34) ∧ Instr.tcpUrgPtr ∈ accessors := by decide
theorem wit_invariant : pending.inv = true ∧ (nextOf (step { pending with agenda := [.levels { Levels.idle with outReady := true }] })).isSome = true := by
  decide
theorem wit_marks : (nextOf (step { pending with faults := { readBeyondFrame := true, hostFbWriteBusy := true }, refused := { reservedInKind := true, oversizeFrame := true } })).isSome = true := by decide
theorem wit_parameters : (nextOf (step State.reset)).isSome = true ∧ Params.default.maxFrameLen < 2 ^ 17 := by decide
theorem wit_neverWrites : Instr.reset ≠ .inFrame 0 [] ∧ (nextOf (exec .stop pending)).isSome = true := by decide
theorem wit_standsStill : pending.ctl = .processing ∧ (nextOf (step pending)).map (fun t => t.ctl) = some .processing ∧ pending.agenda = [] := by
  decide
theorem wit_registers : (nextOf (exec .chainResolve pending)).isSome = true ∧ Instr.chainResolve.levels = none ∧
    (nextOf (exec .outAccept pending)).isSome = true ∧ Instr.outAccept.levels ≠ none := by decide
theorem wit_leave : (nextOf (step { pending with agenda := [.levels { Levels.idle with outReady := true }] })).map (fun t => t.emitted) =
    some [v1Res] := by decide
theorem wit_readySink : ({ pending with agenda := [.levels { Levels.idle with outReady := true }] } : State).parserTurn =
    some { pending with pins := { Levels.idle with outReady := true } } ∧
    ({ pending with pins := { Levels.idle with outReady := true } } : State).parserTurn =
      some { pending with pins := { Levels.idle with outReady := true } } ∧ pending.ctl = .processing := by decide

/-- A run whose sink is ready: the result is taken in the first step, and then the parser waits. -/
def servedRun : Nat → State
  | 0 => { pending with pins := { Levels.idle with outReady := true } }
  | _ + 1 => ({ pending with pins := { Levels.idle with outReady := true } } : State).acceptResult

theorem wit_fairRun : IsRun servedRun ∧ SinkFair servedRun ∧ (servedRun 0).ctl = .processing := by
  refine ⟨fun n => by cases n <;> rfl, fun n h => ?_, rfl⟩
  have h1 : State.outValid (servedRun (n + 1)) = true := h (n + 1) (Nat.le_succ n)
  exact absurd (show pending.acceptResult.outValid = true from h1) (by decide)
theorem wit_noCross : State.reset.ctl = .waiting ∧ (holding v1).ctl = .waiting ∧ ethB.length ≤ State.reset.cfg.maxFrameLen ∧
    ethB.length ≤ (holding v1).cfg.maxFrameLen := by decide
theorem wit_sink : pending.ctl = .processing ∧ 53 < pending.flen ∧ pending.flen ≤ 54 ∧ State.reset.ctl ≠ .processing := by decide
theorem wit_codes : Res.reset.err = none ∧ ((Res.start 0).raise (.truncated .ethernet 14 0)).err = some (.truncated .ethernet 14 0) ∧
    ((Res.start 15).raise (.invalidLength .ipv4 4)).err = some (.invalidLength .ipv4 4) := by decide

end Sys2Proof.Tests
end

/-! ## What the decoder accepts is well-formed (O2) -/

namespace Sys2Proof

/-- The first part of a split has the length asked for. -/
theorem splitBytes_fst_length {n : Nat} {bs xs ys : List Byte} (h : splitBytes n bs = some (xs, ys)) : xs.length = n := by
  unfold splitBytes at h
  split at h
  · next hn =>
    cases h
    exact List.length_take_of_le hn
  · cases h

/-- An `in_kind = 00` word gives a whole frame of an accepted length, or an oversize length of `LEN_W` bits (R128, R129). -/
theorem decodeFrame_wf {c : Params} {bs rest : List Byte} {i : Instr} (h : decodeFrame c bs = .ok (i, rest)) :
    i.wf c = true := by
  unfold decodeFrame at h
  split at h
  · cases h
  · next lb tail _ =>
    split at h
    · next hle =>
      split at h
      · cases h
      · next hdata =>
        cases h
        simp [Instr.wf, hle, splitBytes_fst_length hdata]
    · next hgt =>
      split at h
      · next hlt =>
        cases h
        simp [Instr.wf, Nat.lt_of_not_le hgt, hlt]
      · cases h

/-- An `in_kind = 10` word gives a cause of `CAUSE_W` bits (R131). -/
theorem decodeFatal_wf {c : Params} {bs rest : List Byte} {i : Instr} (h : decodeFatal c bs = .ok (i, rest)) :
    i.wf c = true := by
  unfold decodeFatal at h
  split at h
  · cases h
  · split at h
    · next hlt =>
      cases h
      simp [Instr.wf, hlt]
    · cases h

/-- An input channel word gives a well-formed input operation, whatever its `in_kind` (R62). -/
theorem decodeInChannel_wf {c : Params} {bs rest : List Byte} {i : Instr} (h : decodeInChannel c bs = .ok (i, rest)) :
    i.wf c = true := by
  unfold decodeInChannel at h
  split at h
  · cases h
  split at h
  · exact decodeFrame_wf h
  split at h
  · cases h; rfl
  split at h
  · exact decodeFatal_wf h
  split at h <;> cases h
  rfl

/-- A level word gives the operation of its input and no other (R67). -/
theorem decodeLevel_eq {j i : Instr} {bs rest : List Byte} (h : decodeLevel j bs = .ok (i, rest)) : i = j := by
  unfold decodeLevel at h
  split at h
  · cases h
  · split at h <;> cases h
    rfl

/-- A stage word gives one of the three stages (R76, R77, R86). -/
theorem decodeStage_cases {bs rest : List Byte} {i : Instr} (h : decodeStage bs = .ok (i, rest)) :
    i = .ethResolve ∨ i = .ipv4Resolve ∨ i = .tcpResolve := by
  unfold decodeStage at h
  split at h
  · cases h
  split at h
  · cases h; exact .inl rfl
  split at h
  · split at h
    · cases h
    · split at h <;> cases h
      exact .inr (.inl rfl)
  split at h
  · split at h
    · cases h
    · split at h <;> cases h
      exact .inr (.inr rfl)
  · cases h

/-- An accessor word gives one of the accessors (R59 to R61). -/
theorem decodeAccessor_mem {bs rest : List Byte} {i : Instr} (h : decodeAccessor bs = .ok (i, rest)) : i ∈ accessors := by
  unfold decodeAccessor at h
  split at h
  · cases h
  · split at h
    · cases h
    · next hfind =>
      cases h
      exact List.mem_of_find?_eq_some hfind

/-- The accessors have no operands, so nothing of theirs can be out of range. -/
theorem accessors_wf (c : Params) : ∀ i ∈ accessors, i.wf c = true :=
  List.all_eq_true.mp rfl

/-- The decoder gives only well-formed operations, one format after another. -/
theorem decode_wf {c : Params} {bs rest : List Byte} {i : Instr} (h : decode c bs = .ok (i, rest)) : i.wf c = true := by
  unfold decode at h
  split at h
  · cases h
  split at h
  · exact decodeInChannel_wf h
  split at h
  · rw [decodeLevel_eq h]; rfl
  split at h
  · rw [decodeLevel_eq h]; rfl
  split at h
  · rw [decodeLevel_eq h]; rfl
  split at h
  · cases h; rfl
  split at h
  · rcases decodeStage_cases h with rfl | rfl | rfl <;> rfl
  split at h
  · exact accessors_wf c i (decodeAccessor_mem h)
  · cases h

/-- Settles O2: every format's decoder checks the operands it reads. -/
theorem decodedOperationsAreWellFormed : Obligations.DecodedOperationsAreWellFormed :=
  fun _ _ _ _ h => decode_wf h

end Sys2Proof

/-! ## The parameters (O51) -/

namespace Sys2Proof

/-- `LEN_W` is no wider than any width that holds `MAX_FRAME_LEN` (R9). -/
theorem Params.lenW_le (c : Params) (w : Nat) (h : c.maxFrameLen < 2 ^ w) : c.lenW ≤ w := by
  unfold Params.lenW
  split
  · exact Nat.zero_le w
  · next h0 => exact (Nat.log2_lt h0).mpr h

end Sys2Proof

namespace Sys2Proof.Machine

@[simp] theorem State.withPinsOf_cfg (s : State) (i : Instr) : (s.withPinsOf i).cfg = s.cfg := by
  unfold State.withPinsOf
  split <;> rfl

theorem State.ResolverWrote.cfg_eq {s t : State} (h : s.ResolverWrote t) : t.cfg = s.cfg :=
  (congrArg State.cfg h.1 :)

theorem State.parserTurn_cfg {s u : State} (h : s.parserTurn = some u) : u.cfg = s.cfg :=
  (congrArg State.cfg (s.parserTurn_eq u h) :)

/-- No operation changes the parameters (log 3). -/
theorem exec_cfg {i : Instr} {s t : State} (h : exec i s = .next t) : t.cfg = s.cfg := by
  cases hp : i.levels with
  | none => exact (exec_resolver_wrote i s t hp h).cfg_eq
  | some p =>
    rcases exec_control_cases i s t p hp h with rfl | ⟨_, _, _, _, _, _, _, _, rfl⟩ | ⟨_, _, _, rfl⟩ | ⟨_, _, _, rfl⟩ |
      ⟨_, _, rfl⟩ | ⟨_, _, rfl⟩ | ⟨_, _, rfl⟩ | ⟨_, rfl⟩ <;> simp

/-- A write of the Capture Source changes no parameter (R43, log 3). -/
theorem State.hostWrite_cfg {s t : State} {a : Nat} {b : Byte} (h : State.hostWrite a b s = .next t) : t.cfg = s.cfg := by
  obtain ⟨_, ⟨_, rfl⟩ | ⟨_, rfl⟩⟩ := s.hostWrite_cases t a b h <;> rfl

/-- No step changes the parameters, whatever its move (log 3). -/
theorem step_cfg {s t : State} (h : step s = .next t) : t.cfg = s.cfg := by
  rcases step_cases s t h with ⟨_, hu, _, rfl⟩ | ⟨_, _, hu, _, he⟩ | ⟨_, _, _, _, hw⟩ | ⟨_, _, _, _, _, he⟩
  · exact State.parserTurn_cfg hu
  · exact (exec_cfg he).trans (State.parserTurn_cfg hu)
  · exact (State.hostWrite_cfg hw :)
  · exact (exec_cfg he).trans (State.withPinsOf_cfg _ _)

/-- Settles O51: every case of a step keeps the parameters, and `LEN_W` is large enough and no larger. -/
theorem parametersAreFixed : Obligations.ParametersAreFixed :=
  ⟨fun _ _ => step_cfg, fun c => ⟨c.lt_pow_lenW _ (Nat.le_refl _), c.lenW_le⟩, by decide⟩

end Sys2Proof.Machine

/-! ## The outputs and the state after reset (O20, O49, O58) -/

namespace Sys2Proof.Machine

theorem State.outValid_iff (s : State) : s.outValid = true ↔ s.ctl = .processing := by simp [State.outValid]

theorem State.stoppedOut_iff (s : State) : s.stoppedOut = true ↔ s.ctl = .stopped := by simp [State.stoppedOut]

theorem State.fatalOut_iff (s : State) : s.fatalOut = true ↔ s.ctl = .halted := by simp [State.fatalOut]

theorem State.srcRelease_iff (s : State) : s.srcRelease = true ↔ s.ctl = .stopped ∨ s.ctl = .halted := by
  rw [State.srcRelease, Bool.or_eq_true, s.stoppedOut_iff, s.fatalOut_iff]

theorem State.inReady_iff (s : State) : s.inReady = true ↔ s.ctl = .waiting ∧ s.pins.stopReq = false := by
  simp [State.inReady]

/-- Settles O58: each output is the test of STATE its rule gives. -/
theorem statusOutputsFollowState : Obligations.StatusOutputsFollowState :=
  fun s => ⟨s.outValid_iff, s.stoppedOut_iff, s.fatalOut_iff, s.srcRelease_iff, rfl⟩

/-- Settles O20: every input operation but the empty one, which never writes, tests `in_ready` first. -/
theorem inputsNeedInReady : Obligations.InputsNeedInReady := by
  refine fun s => ⟨s.inReady_iff, fun h => ⟨fun len data => ?_, fun len => ?_, rfl, fun cause => ?_, ?_⟩⟩
  · simp [exec, execInFrame, h]
  · simp [exec, execInFrameOversize, h]
  · simp [exec, execInFatal, h]
  · simp [exec, execInReserved, h]

/-- Settles O49: the fields of the reset state, and an FB with no byte listed. -/
theorem stateAfterReset : Obligations.StateAfterReset :=
  ⟨rfl, rfl, rfl, rfl, rfl, rfl, rfl, fun _ => rfl, rfl, rfl, rfl, rfl, rfl, rfl⟩

/-- Settles O48: FB and the list of results are empty, the lengths are 0 and nothing is offered. -/
theorem resetMeetsTheInvariant : Obligations.ResetMeetsTheInvariant := by
  unfold Obligations.ResetMeetsTheInvariant
  decide

end Sys2Proof.Machine

/-! ## The shape of a resolution (O32) -/

namespace Sys2Proof.Machine

/-- The resolution of a frame with an IPv4 view has R31's shape, whichever way the TCP stage ends. -/
theorem chainAfterIpv4_shape (f : Frame) :
    ∃ r c, chainAfterIpv4 f f.resIp f.ipOf = some (r, c) ∧ r.shape = true ∧ r.frameLen = f.len := by
  rcases chainAfterIpv4_cases f with ⟨_, h⟩ | ⟨_, r, h, hr⟩
  · exact ⟨_, _, h, rfl, rfl⟩
  · refine ⟨r, _, h, ?_⟩
    rcases hr with ⟨_, rfl⟩ | ⟨_, _, rfl⟩ | ⟨_, _, _, rfl⟩ | ⟨_, _, _, rfl⟩ <;> exact ⟨rfl, rfl⟩

/-- The RES a resolution writes has R31's shape and the frame's length. -/
theorem chainResolve_shape {f : Frame} {r : Res} {c : BitVec 7} (h : chainResolve f = some (r, c)) :
    r.shape = true ∧ r.frameLen = f.len := by
  suffices hs : ∃ r c, chainResolve f = some (r, c) ∧ r.shape = true ∧ r.frameLen = f.len by
    obtain ⟨_, _, h', hr⟩ := hs
    cases h.symm.trans h'
    exact hr
  rcases chainResolve_cases f with ⟨_, h⟩ | ⟨_, _, h⟩ | ⟨_, _, h⟩ | ⟨_, _, _, h⟩ | ⟨_, _, _, _, h⟩ | ⟨_, _, _, _, _, h⟩ |
    ⟨_, _, _, _, _, h⟩
  case inr.inr.inr.inr.inr.inr => exact h ▸ chainAfterIpv4_shape f
  all_goals exact ⟨_, _, h, rfl, rfl⟩

theorem Res.errKind_ne_none_iff (r : Res) : r.errKind ≠ 0b00 ↔ r.err.isSome = true := by
  unfold Res.errKind
  split <;> simp [*]

/-- R31's shape clause by clause. -/
theorem Res.shape_iff (r : Res) :
    r.shape = true ↔
      (r.tcpOk = true → r.ipOk = true) ∧ (r.ipOk = true → r.ethOk = true) ∧
      (r.errKind ≠ 0b00 ↔ r.chainEnd = .error) ∧ r.errorFits = true ∧ (r.chainEnd = .complete ↔ r.tcpOk = true) := by
  have himp : ∀ a b : Bool, (!a || b) = true ↔ (a = true → b = true) := by decide
  have hiff : ∀ a b : Bool, (a == b) = true ↔ (a = true ↔ b = true) := by decide
  simp only [r.errKind_ne_none_iff, Res.shape, Bool.and_eq_true, himp, hiff, decide_eq_true_eq, and_assoc]

/-- Where an error may lie beside the views: right after the last one (R31). -/
theorem Res.errorFits_iff (r : Res) :
    r.errorFits = true ↔ ∀ e, r.err = some e →
      (e.stage = .ethernet → r.ethOk = false) ∧ (e.stage = .ipv4 → r.ethOk = true ∧ r.ipOk = false) ∧
      (e.stage = .tcp → r.ipOk = true ∧ r.tcpOk = false) := by
  unfold Res.errorFits
  cases r.err with
  | none => simp
  | some e => cases he : e.stage <;> simp [he]

/-- Settles O32: the shape every way of ending a resolution has, read clause by clause. -/
theorem resultsHaveTheirShape : Obligations.ResultsHaveTheirShape := by
  intro f r c h
  obtain ⟨hshape, hlen⟩ := chainResolve_shape h
  obtain ⟨htcp, hip, herr, hfits, hcomplete⟩ := r.shape_iff.mp hshape
  rw [r.errorFits_iff] at hfits
  exact ⟨htcp, hip, herr, fun e he => (hfits e he).1, fun e he => (hfits e he).2.1, fun e he => (hfits e he).2.2, hcomplete,
    hlen⟩

end Sys2Proof.Machine

/-! ## What a step is, the environment's side apart -/

namespace Sys2Proof

/-- The cause a FATAL input carries fits its signal (R15). -/
def Instr.CauseFits (c : Params) (i : Instr) : Prop := ∀ cause, i = .inFatal cause → cause < 2 ^ c.causeW

theorem Instr.causeFits_of_wf {c : Params} {i : Instr} (h : i.wf c = true) : i.CauseFits c := by
  rintro cause rfl
  simpa [Instr.wf] using h

/-- The input channel's signal gives a cause its width can carry (R15, log 4). -/
theorem decodeInput_causeFits (c : Params) (p : Levels) : (decodeInput c p).CauseFits c := by
  intro cause h
  unfold decodeInput at h
  split_ifs at h
  cases h
  exact Nat.mod_lt _ (Nat.two_pow_pos _)

end Sys2Proof

namespace Sys2Proof.Machine

/-- `s` with other moves to come and other levels driven: what the environment may change of itself (R137). -/
def State.withEnv (s : State) (agenda : List Move) (pins : Levels) : State := { s with agenda := agenda, pins := pins }

/-- The operation the signals select has a cause that fits. -/
theorem State.select_causeFits {s : State} {i : Instr} (h : s.select = some i) : i.CauseFits s.cfg := by
  unfold State.select at h
  split at h
  · cases h; exact nofun
  split at h
  · split_ifs at h <;> cases h
    · exact nofun
    · exact decodeInput_causeFits _ _
  · split at h <;> cases h
    exact nofun
  · cases h
  · cases h

/-- A step is a change of the environment's side and then nothing, one operation whose cause fits its signal, or one write of the
Capture Source. -/
theorem step_env_cases {s t : State} (h : step s = .next t) :
    ∃ agenda pins,
      t = s.withEnv agenda pins ∨
      (∃ i, i.CauseFits s.cfg ∧ exec i (s.withEnv agenda pins) = .next t) ∨
      (∃ a b, State.hostWrite a b (s.withEnv agenda pins) = .next t) := by
  rcases step_cases s t h with ⟨u, hu, _, rfl⟩ | ⟨u, i, hu, hi, he⟩ | ⟨a, b, rest, _, hw⟩ | ⟨w, rest, i, _, hd, he⟩
  · exact ⟨_, _, .inl (s.parserTurn_eq t hu)⟩
  · refine ⟨u.agenda, u.pins, .inr (.inl ⟨i, ?_, ?_⟩)⟩
    · exact State.parserTurn_cfg hu ▸ State.select_causeFits hi
    · exact s.parserTurn_eq u hu ▸ he
  · exact ⟨rest, s.pins, .inr (.inr ⟨a, b, hw⟩)⟩
  · refine ⟨rest, (State.withPinsOf { s with agenda := rest } i).pins, .inr (.inl ⟨i, Instr.causeFits_of_wf (decode_wf hd), ?_⟩)⟩
    rw [← he]
    unfold State.withPinsOf
    split <;> rfl

end Sys2Proof.Machine

/-! ## The marks (O50) -/

namespace Sys2Proof.Machine

/-- Every reason marked in `s` is marked in `t` (R33). -/
structure State.MarksKept (s t : State) : Prop where
  readBeyondFrame : s.faults.readBeyondFrame = true → t.faults.readBeyondFrame = true
  hostFbWriteBusy : s.faults.hostFbWriteBusy = true → t.faults.hostFbWriteBusy = true
  reservedInKind : s.refused.reservedInKind = true → t.refused.reservedInKind = true
  oversizeFrame : s.refused.oversizeFrame = true → t.refused.oversizeFrame = true

theorem State.MarksKept.of_eq {s t : State} (hf : t.faults = s.faults) (hr : t.refused = s.refused) : s.MarksKept t :=
  ⟨by simp [hf], by simp [hf], by simp [hr], by simp [hr]⟩

theorem State.MarksKept.trans {s t u : State} (h : s.MarksKept t) (h' : t.MarksKept u) : s.MarksKept u :=
  ⟨h'.readBeyondFrame ∘ h.readBeyondFrame, h'.hostFbWriteBusy ∘ h.hostFbWriteBusy, h'.reservedInKind ∘ h.reservedInKind,
    h'.oversizeFrame ∘ h.oversizeFrame⟩

/-- The environment's side holds no mark. -/
theorem State.withEnv_marksKept (s : State) (agenda : List Move) (pins : Levels) : s.MarksKept (s.withEnv agenda pins) :=
  .of_eq rfl rfl

theorem State.addRefusal_marksKept (s : State) (r : RefusalReason) : s.MarksKept (s.addRefusal r) := by
  cases r <;> constructor <;> simp

theorem State.ResolverWrote.marksKept {s t : State} (h : s.ResolverWrote t) : s.MarksKept t := by
  obtain ⟨ht, hread⟩ := h
  exact ⟨hread, by rw [ht]; exact id, by rw [ht]; exact id, by rw [ht]; exact id⟩

/-- No operation takes a mark away. -/
theorem exec_marksKept {i : Instr} {s t : State} (h : exec i s = .next t) : s.MarksKept t := by
  cases hp : i.levels with
  | none => exact (exec_resolver_wrote i s t hp h).marksKept
  | some p =>
    rcases exec_control_cases i s t p hp h with rfl | ⟨_, _, _, _, _, _, _, _, rfl⟩ | ⟨_, _, _, rfl⟩ | ⟨_, _, _, rfl⟩ |
      ⟨_, _, rfl⟩ | ⟨_, _, rfl⟩ | ⟨_, _, rfl⟩ | ⟨_, rfl⟩
    · exact .of_eq rfl rfl
    · exact .of_eq rfl rfl
    · exact s.addRefusal_marksKept _
    · exact .of_eq rfl rfl
    · exact s.addRefusal_marksKept _
    · exact .of_eq rfl rfl
    · exact .of_eq rfl rfl
    · exact .of_eq rfl rfl

/-- A write of the Capture Source takes no mark away (R43). -/
theorem State.hostWrite_marksKept {s t : State} {a : Nat} {b : Byte} (h : State.hostWrite a b s = .next t) : s.MarksKept t := by
  obtain ⟨_, ⟨_, rfl⟩ | ⟨_, rfl⟩⟩ := s.hostWrite_cases t a b h
  · exact ⟨id, fun _ => rfl, id, id⟩
  · exact .of_eq rfl rfl

/-- No part of a step takes a mark away. -/
theorem step_marksKept {s t : State} (h : step s = .next t) : s.MarksKept t := by
  obtain ⟨_, _, rfl | ⟨_, _, he⟩ | ⟨_, _, hw⟩⟩ := step_env_cases h
  · exact s.withEnv_marksKept _ _
  · exact (s.withEnv_marksKept _ _).trans (exec_marksKept he)
  · exact (s.withEnv_marksKept _ _).trans (State.hostWrite_marksKept hw)

/-- Settles O50: each of the four reasons survives every operation and every write. -/
theorem marksAreNeverRemoved : Obligations.MarksAreNeverRemoved := by
  refine ⟨by decide, fun s t h => ?_⟩
  obtain ⟨hread, hbusy, hkind, hsize⟩ := step_marksKept h
  exact ⟨hread, hbusy, hkind, hsize⟩

end Sys2Proof.Machine

/-! ## Which operation writes which register (O54) -/

namespace Sys2Proof.Machine

/-- A chain, stage or accessor operation leaves STATE, FLEN and FATAL_CAUSE (R22, R143). -/
theorem State.ResolverWrote.registers {s t : State} (h : s.ResolverWrote t) :
    t.ctl = s.ctl ∧ t.flen = s.flen ∧ t.fatalCause = s.fatalCause := by
  rw [h.1]
  exact ⟨rfl, rfl, rfl⟩

/-- A control transaction writes FATAL_CAUSE, FLEN and RES only where it is the transaction their rule names (R22, R143). -/
theorem exec_control_registers {i : Instr} {s t : State} {p : Levels} (hp : i.levels = some p) (h : exec i s = .next t) :
    ((∀ cause, i ≠ .inFatal cause) → i ≠ .reset → t.fatalCause = s.fatalCause) ∧
    ((∀ len data, i ≠ .inFrame len data) → i ≠ .reset → t.flen = s.flen ∧ t.res = s.res) := by
  rcases exec_control_cases i s t p hp h with rfl | ⟨len, data, _, _, rfl, _, _, _, rfl⟩ | ⟨_, _, _, rfl⟩ |
    ⟨cause, rfl, _, rfl⟩ | ⟨_, _, rfl⟩ | ⟨_, _, rfl⟩ | ⟨_, _, rfl⟩ | ⟨rfl, rfl⟩
  · exact ⟨fun _ _ => rfl, fun _ _ => ⟨rfl, rfl⟩⟩
  · exact ⟨fun _ _ => rfl, fun hne => absurd rfl (hne len data)⟩
  · exact ⟨fun _ _ => rfl, fun _ _ => ⟨rfl, rfl⟩⟩
  · exact ⟨fun hne => absurd rfl (hne cause), fun _ _ => ⟨rfl, rfl⟩⟩
  · exact ⟨fun _ _ => rfl, fun _ _ => ⟨rfl, rfl⟩⟩
  · exact ⟨fun _ _ => rfl, fun _ _ => ⟨rfl, rfl⟩⟩
  · exact ⟨fun _ _ => rfl, fun _ _ => ⟨rfl, rfl⟩⟩
  · exact ⟨fun _ hne => absurd rfl hne, fun _ hne => absurd rfl hne⟩

/-- Settles O54: the resolver's operations write none of the three other registers, and each control transaction its own. -/
theorem registersAreWrittenByTheirOwnOperations : Obligations.RegistersAreWrittenByTheirOwnOperations := by
  intro s t i h
  cases hp : i.levels with
  | none =>
    obtain ⟨hctl, hflen, hcause⟩ := (exec_resolver_wrote i s t hp h).registers
    exact ⟨fun _ _ => hcause, fun _ _ => hflen, fun _ => hctl, fun hne => absurd rfl hne⟩
  | some p =>
    obtain ⟨hcause, hframe⟩ := exec_control_registers hp h
    exact ⟨hcause, fun hi hr => (hframe hi hr).1, nofun, fun _ hi hr => (hframe hi hr).2⟩

end Sys2Proof.Machine

/-! ## The invariant (O47) -/

namespace Sys2Proof.Machine

/-- What `State.inv` says, clause by clause. -/
structure State.Invariant (s : State) : Prop where
  fbWf : s.fb.wf = true
  fbBelow : s.fb.below s.cfg.maxFrameLen = true
  flenLe : s.flen ≤ s.cfg.maxFrameLen
  causeLt : s.fatalCause < 2 ^ s.cfg.causeW
  offered : s.ctl = .processing → s.res.shape = true ∧ s.res.frameLen = s.flen
  emittedShape : ∀ r ∈ s.emitted, r.shape = true

theorem State.inv_iff (s : State) : s.inv = true ↔ s.Invariant := by
  have hoffer : (!s.outValid || (s.res.shape && s.res.frameLen == s.flen)) = true ↔
      (s.ctl = .processing → s.res.shape = true ∧ s.res.frameLen = s.flen) := by
    simp [State.outValid, imp_iff_not_or]
  simp only [State.inv, Bool.and_eq_true, hoffer, decide_eq_true_eq, List.all_eq_true]
  constructor
  · rintro ⟨⟨⟨⟨⟨hwf, hbelow⟩, hflen⟩, hcause⟩, hres⟩, hemitted⟩
    exact ⟨hwf, hbelow, hflen, hcause, hres, hemitted⟩
  · rintro ⟨hwf, hbelow, hflen, hcause, hres, hemitted⟩
    exact ⟨⟨⟨⟨⟨hwf, hbelow⟩, hflen⟩, hcause⟩, hres⟩, hemitted⟩

/-- What R31 looks at in a result: its length, which views are present, the error and how the chain ended. -/
structure Res.SameOutline (r r' : Res) : Prop where
  frameLen : r'.frameLen = r.frameLen
  ethOk : r'.ethOk = r.ethOk
  ipOk : r'.ipOk = r.ipOk
  tcpOk : r'.tcpOk = r.tcpOk
  err : r'.err = r.err
  chainEnd : r'.chainEnd = r.chainEnd

theorem Res.SameOutline.refl (r : Res) : r.SameOutline r := ⟨rfl, rfl, rfl, rfl, rfl, rfl⟩

theorem Res.SameOutline.shape_eq {r r' : Res} (h : r.SameOutline r') : r'.shape = r.shape := by
  simp only [Res.shape, Res.errorFits, h.ethOk, h.ipOk, h.tcpOk, h.err, h.chainEnd]

/-- Writing a field of a present Ethernet view keeps the outline of RES. -/
theorem State.putEth_outline {α : Type} (s : State) (x : Option α) (put : EthView → α → EthView) :
    s.res.SameOutline (s.putEth x put).res := by
  rcases s.putEth_cases x put with ⟨_, h⟩ | ⟨_, h⟩ | ⟨v, a, hv, _, h⟩ <;> rw [h]
  · exact .refl _
  · exact .refl _
  · exact ⟨rfl, by simp [Res.ethOk, hv], rfl, rfl, rfl, rfl⟩

/-- Writing a field of a present IPv4 view keeps the outline of RES. -/
theorem State.putIp_outline {α : Type} (s : State) (x : IpView → Option α) (put : IpView → α → IpView) :
    s.res.SameOutline (s.putIp x put).res := by
  rcases s.putIp_cases x put with ⟨_, h⟩ | ⟨_, _, _, h⟩ | ⟨v, a, hv, _, h⟩ <;> rw [h]
  · exact .refl _
  · exact .refl _
  · exact ⟨rfl, rfl, by simp [Res.ipOk, hv], rfl, rfl, rfl⟩

/-- Writing a field of a present TCP view keeps the outline of RES. -/
theorem State.putTcp_outline {α : Type} (s : State) (x : TcpView → Option α) (put : TcpView → α → TcpView) :
    s.res.SameOutline (s.putTcp x put).res := by
  rcases s.putTcp_cases x put with ⟨_, h⟩ | ⟨_, _, _, h⟩ | ⟨v, a, hv, _, h⟩ <;> rw [h]
  · exact .refl _
  · exact .refl _
  · exact ⟨rfl, rfl, rfl, by simp [Res.tcpOk, hv], rfl, rfl⟩

/-- A stage that returns writes no RES (R86, R91, R106). -/
theorem State.putReturn_outline (s : State) (stage : SeqStage) (cur : Nat) (r : Option Returned) :
    s.res.SameOutline (s.putReturn stage cur r).res := by
  cases r <;> exact .refl _

theorem State.resolverStep_outline {s t u : State} (h : s.resolverStep t = .next u) (ht : s.res.SameOutline t.res) :
    s.res.SameOutline u.res := by
  rcases s.resolverStep_eq t u h with rfl | rfl
  · exact ht
  · exact .refl _

/-- An operation of the resolver keeps the outline of RES, but for CHAIN_RESOLVE, which writes the current frame's resolution. -/
theorem exec_resolver_res {i : Instr} {s t : State} (hi : i.levels = none) (h : exec i s = .next t) :
    s.res.SameOutline t.res ∨ ∃ c, chainResolve s.frame = some (t.res, c) := by
  cases i with
  | chainResolve =>
    obtain ⟨r, c, hr⟩ := chainResolve_some s.frame
    simp only [exec, execChainResolve, hr] at h
    rcases s.resolverStep_eq _ t h with rfl | rfl
    · exact .inr ⟨c, hr⟩
    · exact .inl (.refl _)
  | ethResolve => exact .inl (State.resolverStep_outline h (s.putReturn_outline _ _ _))
  | ipv4Resolve =>
    simp only [exec, execIpv4Resolve] at h
    split at h
    · exact .inl (State.resolverStep_outline h (s.putReturn_outline _ _ _))
    · cases h; exact .inl (.refl _)
  | tcpResolve =>
    simp only [exec, execTcpResolve] at h
    split at h
    · cases h; exact .inl (.refl _)
    · exact .inl (State.resolverStep_outline h (s.putReturn_outline _ _ _))
  | ethDst | ethSrc | ethEthertype => exact .inl (State.resolverStep_outline h (s.putEth_outline _ _))
  | ipVersion | ipIhl | ipLen | ipTos | ipTotalLength | ipIdentification | ipTtl | ipProtocol | ipChecksum | ipSaddr | ipDaddr =>
    exact .inl (State.resolverStep_outline h (s.putIp_outline _ _))
  | tcpSport | tcpDport | tcpSeq | tcpAckNum | tcpDoff | tcpLen | tcpUrg | tcpAck | tcpPsh | tcpRst | tcpSyn | tcpFin | tcpWindow
  | tcpChecksum | tcpUrgPtr => exact .inl (State.resolverStep_outline h (s.putTcp_outline _ _))
  | inFrame | inFrameOversize | inEmpty | inFatal | inReserved | stop | outAccept | reset => cases hi

/-- An operation of the resolver keeps the invariant: of what it says they write RES only, and leave a result of the frame's shape. -/
theorem exec_resolver_invariant {i : Instr} {s t : State} (hs : s.Invariant) (hi : i.levels = none) (h : exec i s = .next t) :
    t.Invariant := by
  have hres : s.ctl = .processing → t.res.shape = true ∧ t.res.frameLen = s.flen := by
    intro hp
    rcases exec_resolver_res hi h with ho | ⟨_, hc⟩
    · rw [ho.shape_eq, ho.frameLen]
      exact hs.offered hp
    · exact chainResolve_shape hc
  rw [(exec_resolver_wrote i s t hi h).1]
  exact ⟨hs.fbWf, hs.fbBelow, hs.flenLe, hs.causeLt, hres, hs.emittedShape⟩

/-- A FRAME transfer of an accepted length keeps FB canonical and inside its address space, and offers the frame's resolution. -/
theorem State.Invariant.inFrame {s : State} (hs : s.Invariant) {len : Nat} {data : List Byte} {r : Res} {c : BitVec 7}
    (hl : len ≤ s.cfg.maxFrameLen)
    (hr : chainResolve { fb := s.fb.writeFrom 0 (data.take len), len := len } = some (r, c)) :
    State.Invariant { s with
      fb := s.fb.writeFrom 0 (data.take len)
      flen := len
      res := r
      ctl := .processing
      stage := .done
      cur := c } where
  fbWf := Memory.writeFrom_wf _ _ _ hs.fbWf
  fbBelow := Memory.writeFrom_below _ _ _ _ (by simp; omega) hs.fbBelow
  flenLe := hl
  causeLt := hs.causeLt
  offered _ := chainResolve_shape hr
  emittedShape := hs.emittedShape

/-- An acceptance keeps the invariant: the result it emits was the offered one. -/
theorem State.Invariant.acceptResult {s : State} (hs : s.Invariant) (hp : s.ctl = .processing) : s.acceptResult.Invariant where
  fbWf := hs.fbWf
  fbBelow := hs.fbBelow
  flenLe := hs.flenLe
  causeLt := hs.causeLt
  offered := nofun
  emittedShape r hr := by
    rcases List.mem_append.mp hr with hr | hr
    · exact hs.emittedShape r hr
    · exact List.mem_singleton.mp hr ▸ (hs.offered hp).1

/-- A control transaction whose cause fits its signal keeps the invariant. -/
theorem exec_control_invariant {i : Instr} {s t : State} {p : Levels} (hs : s.Invariant) (hi : i.CauseFits s.cfg)
    (hp : i.levels = some p) (h : exec i s = .next t) : t.Invariant := by
  rcases exec_control_cases i s t p hp h with rfl | ⟨_, _, _, _, _, _, hl, hr, rfl⟩ | ⟨_, _, _, rfl⟩ | ⟨cause, rfl, _, rfl⟩ |
    ⟨_, _, rfl⟩ | ⟨_, _, rfl⟩ | ⟨_, hctl, rfl⟩ | ⟨_, rfl⟩
  · exact hs
  · exact hs.inFrame hl hr
  · exact ⟨hs.fbWf, hs.fbBelow, hs.flenLe, hs.causeLt, hs.offered, hs.emittedShape⟩
  · exact ⟨hs.fbWf, hs.fbBelow, hs.flenLe, hi cause rfl, nofun, hs.emittedShape⟩
  · exact ⟨hs.fbWf, hs.fbBelow, hs.flenLe, hs.causeLt, hs.offered, hs.emittedShape⟩
  · exact ⟨hs.fbWf, hs.fbBelow, hs.flenLe, hs.causeLt, nofun, hs.emittedShape⟩
  · exact hs.acceptResult hctl
  · exact ⟨hs.fbWf, hs.fbBelow, Nat.zero_le _, Nat.two_pow_pos _, nofun, hs.emittedShape⟩

/-- A write of the Capture Source keeps the invariant: it lands inside FB and RES is untouched (R38, R43). -/
theorem State.hostWrite_invariant {s t : State} {a : Nat} {b : Byte} (hs : s.Invariant) (h : State.hostWrite a b s = .next t) :
    t.Invariant := by
  obtain ⟨ha, ht⟩ := s.hostWrite_cases t a b h
  have hwf := Memory.set_wf s.fb a b hs.fbWf
  have hbelow := Memory.set_below _ _ a b ha hs.fbBelow
  rcases ht with ⟨_, rfl⟩ | ⟨_, rfl⟩ <;> exact ⟨hwf, hbelow, hs.flenLe, hs.causeLt, hs.offered, hs.emittedShape⟩

/-- The invariant says nothing of the environment's side. -/
theorem State.Invariant.withEnv {s : State} (hs : s.Invariant) (agenda : List Move) (pins : Levels) :
    (s.withEnv agenda pins).Invariant :=
  ⟨hs.fbWf, hs.fbBelow, hs.flenLe, hs.causeLt, hs.offered, hs.emittedShape⟩

/-- A step keeps the invariant, part by part. -/
theorem step_invariant {s t : State} (hs : s.Invariant) (h : step s = .next t) : t.Invariant := by
  obtain ⟨agenda, pins, rfl | ⟨i, hi, he⟩ | ⟨a, b, hw⟩⟩ := step_env_cases h
  · exact hs.withEnv agenda pins
  · cases hp : i.levels with
    | none => exact exec_resolver_invariant (hs.withEnv agenda pins) hp he
    | some p => exact exec_control_invariant (hs.withEnv agenda pins) hi hp he
  · exact State.hostWrite_invariant (hs.withEnv agenda pins) hw

/-- Settles O47: the invariant, clause by clause, is kept by the environment's change, by every operation and by every write. -/
theorem everyStepKeepsTheInvariant : Obligations.EveryStepKeepsTheInvariant :=
  fun s t hs h => t.inv_iff.mpr (step_invariant (s.inv_iff.mp hs) h)

end Sys2Proof.Machine

/-! ## The resolution sees the frame's bytes only, and two machines agree on it (O57) -/

namespace Sys2Proof.Machine

/-- Two frames of one length with the same bytes below it (R82, R83). -/
structure Frame.Agrees (f g : Frame) : Prop where
  len : f.len = g.len
  byteAt : ∀ i, i < f.len → f.byteAt i = g.byteAt i

section
variable {f g : Frame}

/-- A checked read answers alike where the frame reaches, if the bytes it takes there are the same, and nothing beyond it. -/
theorem Frame.Agrees.guarded {α : Type} (h : f.Agrees g) (a n : Nat) {v w : α} (hv : a + n ≤ f.len → v = w) :
    f.guarded a n v = g.guarded a n w := by
  unfold Frame.guarded
  rw [← h.len]
  split
  · next hle => rw [hv hle]
  · rfl

theorem Frame.Agrees.read1 (h : f.Agrees g) (a : Nat) : f.read1 a = g.read1 a :=
  h.guarded a 1 fun _ => h.byteAt a (by omega)

theorem Frame.Agrees.read2 (h : f.Agrees g) (a : Nat) : f.read2 a = g.read2 a :=
  h.guarded a 2 fun _ => by simp (disch := omega) only [h.byteAt]

theorem Frame.Agrees.read4 (h : f.Agrees g) (a : Nat) : f.read4 a = g.read4 a :=
  h.guarded a 4 fun _ => by simp (disch := omega) only [h.byteAt]

theorem Frame.Agrees.read6 (h : f.Agrees g) (a : Nat) : f.read6 a = g.read6 a :=
  h.guarded a 6 fun _ => by simp (disch := omega) only [h.byteAt]

/-- The Ethernet stage reads the frame by checked reads only. -/
theorem Frame.Agrees.ethStage (h : f.Agrees g) : ethStage f = ethStage g := by
  simp only [Machine.ethStage, ethView, fieldEthDst, fieldEthSrc, fieldEthEthertype, h.len, h.read6, h.read2]

/-- The IPv4 stage reads the frame by checked reads only. -/
theorem Frame.Agrees.ipv4Stage (h : f.Agrees g) : ipv4Stage f = ipv4Stage g := by
  simp only [Machine.ipv4Stage, ipView, fieldIpVersion, fieldIpIhl, fieldIpTos, fieldIpTotalLength, fieldIpIdentification,
    fieldIpTtl, fieldIpProtocol, fieldIpChecksum, fieldIpSaddr, fieldIpDaddr, h.len, h.read1, h.read2, h.read4]

/-- The TCP stage reads the frame by checked reads only. -/
theorem Frame.Agrees.tcpStage (h : f.Agrees g) (t : Nat) : tcpStage f t = tcpStage g t := by
  simp only [Machine.tcpStage, tcpView, fieldTcpSport, fieldTcpDport, fieldTcpSeq, fieldTcpAckNum, fieldTcpDoff, fieldTcpUrg,
    fieldTcpAck, fieldTcpPsh, fieldTcpRst, fieldTcpSyn, fieldTcpFin, fieldTcpFlag, fieldTcpWindow, fieldTcpChecksum,
    fieldTcpUrgPtr, h.len, h.read1, h.read2, h.read4]

/-- A resolution is a function of the length and the bytes below it (R82). -/
theorem Frame.Agrees.chainResolve (h : f.Agrees g) : chainResolve f = chainResolve g := by
  simp only [Machine.chainResolve, chainAfterEth, chainAfterIpv4, h.len, h.ethStage, h.ipv4Stage, h.tcpStage]

end

/-- The frame of `d` after a FRAME transfer into `m`. -/
def Memory.loaded (m : Memory) (d : List Byte) : Frame := { fb := m.writeFrom 0 d, len := d.length }

theorem Memory.loaded_byteAt (m : Memory) (d : List Byte) (i : Nat) (h : i < d.length) : (m.loaded d).byteAt i = d[i] := by
  have hget := Memory.get_writeFrom_inside d m 0 i h
  rw [Nat.zero_add] at hget
  simp [Frame.byteAt, Memory.loaded, hget]

/-- What FB held before a transfer is no part of the frame (R40, R83). -/
theorem Memory.loaded_agrees (m m' : Memory) (d : List Byte) : (m.loaded d).Agrees (m'.loaded d) where
  len := rfl
  byteAt i (h : i < d.length) := by rw [m.loaded_byteAt d i h, m'.loaded_byteAt d i h]

/-- The levels of `FRAME <bytes>` (R71). -/
def frameLevels (d : List Byte) : Levels :=
  { Levels.idle with inValid := true, inKind := 0b00#2, inLen := d.length, inData := d }

/-- The levels of `ACCEPT` (R71). -/
def acceptLevels : Levels := { Levels.idle with outReady := true }

theorem process_eq (d : List Byte) : Claims.process d = [.levels (frameLevels d), .levels acceptLevels] := rfl

/-- A step under levels that select an operation runs it. -/
theorem step_levels {s : State} {p : Levels} {rest : List Move} {i : Instr} (ha : s.agenda = .levels p :: rest)
    (hi : (s.withEnv rest p).select = some i) : step s = exec i (s.withEnv rest p) := by
  have hu : s.parserTurn = some (s.withEnv rest p) := by
    rw [State.parserTurn, ha]
    rfl
  rw [step_parserTurn s _ hu, runLevels, hi]

/-- The levels of `FRAME <bytes>` select the transfer of these bytes (R62, R128). -/
theorem select_frameLevels {s : State} {d : List Byte} (rest : List Move) (hw : s.ctl = .waiting)
    (hd : d.length ≤ s.cfg.maxFrameLen) : (s.withEnv rest (frameLevels d)).select = some (.inFrame d.length d) := by
  have hlen : d.length % 2 ^ s.cfg.lenW = d.length := Nat.mod_eq_of_lt (s.cfg.lt_pow_lenW _ hd)
  simp [State.select, State.withEnv, frameLevels, Levels.idle, hw, decodeInput, hlen, hd]

/-- `FRAME <bytes>` in WAITING: the frame's resolution is offered, and nothing is emitted or marked (R128). -/
theorem step_frame {s : State} {d : List Byte} {rest : List Move} (ha : s.agenda = .levels (frameLevels d) :: rest)
    (hw : s.ctl = .waiting) (hd : d.length ≤ s.cfg.maxFrameLen) :
    ∃ c t, step s = .next t ∧ chainResolve (s.fb.loaded d) = some (t.res, c) ∧ t.ctl = .processing ∧ t.agenda = rest ∧
      t.emitted = s.emitted ∧ t.faults = s.faults := by
  have hready : (s.withEnv rest (frameLevels d)).inReady = true := (State.inReady_iff _).mpr ⟨hw, rfl⟩
  obtain ⟨r, c, hr, he⟩ := exec_inFrame _ d.length d hready hd
  rw [List.take_length] at hr
  exact ⟨c, _, (step_levels ha (select_frameLevels rest hw hd)).trans he, hr, rfl, rfl, rfl, rfl⟩

/-- `ACCEPT` in PROCESSING: the offered result is emitted and the machine waits again, with no new mark (R133). -/
theorem step_accept {s : State} {rest : List Move} (ha : s.agenda = .levels acceptLevels :: rest) (hp : s.ctl = .processing) :
    ∃ t, step s = .next t ∧ t.emitted = s.emitted ++ [s.res] ∧ t.ctl = .waiting ∧ t.faults = s.faults := by
  have hselect : (s.withEnv rest acceptLevels).select = some .outAccept := by
    simp [State.select, State.withEnv, acceptLevels, Levels.idle, hp]
  have he : exec .outAccept (s.withEnv rest acceptLevels) = .next (s.withEnv rest acceptLevels).acceptResult :=
    if_pos ((State.outValid_iff _).mpr hp)
  exact ⟨_, (step_levels ha hselect).trans he, rfl, rfl, rfl⟩

/-- A run whose first step answers a next state goes on from there. -/
theorem run_succ {s t : State} (n : Nat) (h : step s = .next t) :
    Host.Core.run Sys2Proof.core (n + 1) s = Host.Core.run Sys2Proof.core n t := by
  simp only [Host.Core.run, Host.Check.core_step, h]

/-- `PROCESS <bytes>` of a WAITING machine emits the frame's resolution in two steps (R71, R148). -/
theorem run_process {s : State} {d : List Byte} (hw : s.ctl = .waiting) (hd : d.length ≤ s.cfg.maxFrameLen) :
    ∃ r c t, chainResolve (s.fb.loaded d) = some (r, c) ∧
      Host.Core.run Sys2Proof.core 2 ({ s with agenda := Claims.process d } : State) = .next t ∧
      t.emitted = s.emitted ++ [r] ∧ t.ctl = .waiting ∧ t.faults = s.faults := by
  obtain ⟨c, u, hframe, hr, hp, hagenda, hemitted, hfaults⟩ :=
    step_frame (s := { s with agenda := Claims.process d }) (process_eq d) hw hd
  obtain ⟨t, haccept, hemitted', hw', hfaults'⟩ := step_accept hagenda hp
  refine ⟨u.res, c, t, hr, ?_, hemitted' ▸ hemitted ▸ rfl, hw', hfaults'.trans hfaults⟩
  rw [run_succ 1 hframe, run_succ 0 haccept]
  rfl

/-- Settles O57: each machine emits the resolution of the frame it loaded, and the two frames agree below their length. -/
theorem noCrossFrameState : Obligations.NoCrossFrameState := by
  intro s₁ s₂ d hw₁ hw₂ hd₁ hd₂
  obtain ⟨r₁, c₁, t₁, hr₁, hrun₁, hemitted₁, hctl₁, hfaults₁⟩ := run_process hw₁ hd₁
  obtain ⟨r₂, c₂, t₂, hr₂, hrun₂, hemitted₂, hctl₂, hfaults₂⟩ := run_process hw₂ hd₂
  have hagree := (Memory.loaded_agrees s₁.fb s₂.fb d).chainResolve
  obtain ⟨rfl, rfl⟩ : r₁ = r₂ ∧ c₁ = c₂ := by simpa [hr₁, hr₂] using hagree
  exact ⟨r₁, t₁, t₂, hrun₁, hrun₂, hemitted₁, hemitted₂, hctl₁, hctl₂, hfaults₁, hfaults₂⟩

end Sys2Proof.Machine

/-! ## What a write of the Capture Source does (O24, O25) -/

namespace Sys2Proof.Machine

/-- A step whose move is a write of the Capture Source is that write, with the move taken off the agenda (R43). -/
theorem step_fbWrite {s : State} {a : Nat} {b : Byte} {rest : List Move} (h : s.agenda = .fbWrite a b :: rest) :
    step s = State.hostWrite a b { s with agenda := rest } := by
  simp [step, takeMove, h]

section
variable {s : State} {a : Nat} (b : Byte)

/-- While PROCESSING a write inside FB is applied and marked. -/
theorem State.hostWrite_processing (ha : a < s.cfg.maxFrameLen) (hp : s.ctl = .processing) :
    State.hostWrite a b s =
      .next { s with fb := s.fb.set a b, faults := { s.faults with hostFbWriteBusy := true } } := by
  simp only [State.hostWrite, ha, hp, if_true]
  rfl

/-- In every other STATE a write inside FB is applied and nothing else. -/
theorem State.hostWrite_not_processing (ha : a < s.cfg.maxFrameLen) (hp : s.ctl ≠ .processing) :
    State.hostWrite a b s = .next { s with fb := s.fb.set a b } := by
  simp only [State.hostWrite, ha, hp, if_true, if_false]

/-- An address FB does not have is none that can be written (R38, log 16). -/
theorem State.hostWrite_outside (ha : s.cfg.maxFrameLen ≤ a) : State.hostWrite a b s = .fault .noSuchAddress :=
  if_neg (Nat.not_lt.mpr ha)

end

/-- Settles O24: the write is one byte of FB, read back at its address only, with the mark in PROCESSING alone. -/
theorem hostWriteWhileProcessingIsAFault : Obligations.HostWriteWhileProcessingIsAFault := by
  intro s a b rest hmove ha
  rw [step_fbWrite hmove]
  have hsame := s.fb.get_set_same a b
  have hother := fun i => s.fb.get_set_other a i b
  by_cases hp : s.ctl = .processing
  · exact ⟨_, State.hostWrite_processing b ha hp, hsame, hother, fun _ => rfl, fun hne => absurd hp hne⟩
  · exact ⟨_, State.hostWrite_not_processing b ha hp, hsame, hother, fun hp' => absurd hp' hp, fun _ => rfl⟩

/-- Settles O25: the move is the write, and the write has no such address. -/
theorem hostWriteOutsideTheBufferStops : Obligations.HostWriteOutsideTheBufferStops := by
  intro s a b rest hmove ha
  rw [step_fbWrite hmove]
  exact State.hostWrite_outside b ha

/-- Settles O59: the sink's read tests STATE and the offset, and each clause decides that test. -/
theorem sinkReadsThePendingFrame : Obligations.SinkReadsThePendingFrame := by
  intro s i
  refine ⟨fun hp hi => if_pos ⟨hp, hi⟩, fun _ hi => if_neg ?_, fun hp => if_neg ?_⟩
  · rintro ⟨_, hlt⟩
    exact Nat.not_lt.mpr hi hlt
  · rintro ⟨hp', _⟩
    exact hp hp'

end Sys2Proof.Machine

/-! ## What a step leaves of FB, of a pending result and of the results taken (O52, O53, O55) -/

namespace Sys2Proof.Machine

theorem State.ResolverWrote.fb_eq {s t : State} (h : s.ResolverWrote t) : t.fb = s.fb := (congrArg State.fb h.1 :)

theorem State.ResolverWrote.emitted_eq {s t : State} (h : s.ResolverWrote t) : t.emitted = s.emitted :=
  (congrArg State.emitted h.1 :)

/-- The FRAME transfer is the only operation that writes FB (R42). -/
theorem exec_fb {i : Instr} {s t : State} (hi : ∀ len data, i ≠ .inFrame len data) (h : exec i s = .next t) :
    t.fb = s.fb := by
  cases hp : i.levels with
  | none => exact (exec_resolver_wrote i s t hp h).fb_eq
  | some p =>
    rcases exec_control_cases i s t p hp h with rfl | ⟨len, data, _, _, rfl, _⟩ | ⟨_, _, _, rfl⟩ | ⟨_, _, _, rfl⟩ |
      ⟨_, _, rfl⟩ | ⟨_, _, rfl⟩ | ⟨_, _, rfl⟩ | ⟨_, rfl⟩
    case inr.inl => exact absurd rfl (hi len data)
    all_goals simp

/-- Settles O52: an operation that is no FRAME transfer leaves the whole of FB. -/
theorem parserNeverWritesTheFrameBuffer : Obligations.ParserNeverWritesTheFrameBuffer :=
  fun _ _ _ hi h _ => by rw [exec_fb hi h]

/-- An operation run from its word drives levels and nothing else (log 10). -/
theorem State.withPinsOf_eq (s : State) (i : Instr) : s.withPinsOf i = { s with pins := (s.withPinsOf i).pins } := by
  unfold State.withPinsOf
  split <;> rfl

@[simp] theorem State.withPinsOf_ctl (s : State) (i : Instr) : (s.withPinsOf i).ctl = s.ctl := by rw [s.withPinsOf_eq]
@[simp] theorem State.withPinsOf_flen (s : State) (i : Instr) : (s.withPinsOf i).flen = s.flen := by rw [s.withPinsOf_eq]
@[simp] theorem State.withPinsOf_fb (s : State) (i : Instr) : (s.withPinsOf i).fb = s.fb := by rw [s.withPinsOf_eq]
@[simp] theorem State.withPinsOf_emitted (s : State) (i : Instr) : (s.withPinsOf i).emitted = s.emitted := by
  rw [s.withPinsOf_eq]

/-- A control transaction that finds a result pending and leaves it pending does nothing: an input and a stop need WAITING, an acceptance
and a reset go there (R125). -/
theorem exec_control_pending {i : Instr} {s t : State} {p : Levels} (hp : i.levels = some p) (hs : s.ctl = .processing)
    (ht : t.ctl = .processing) (h : exec i s = .next t) : t = s := by
  have hready : s.inReady ≠ true := by simp [s.inReady_iff, hs]
  rcases exec_control_cases i s t p hp h with rfl | ⟨_, _, _, _, _, hr, _⟩ | ⟨_, _, hr, _⟩ | ⟨_, _, hr, _⟩ | ⟨_, hr, _⟩ |
    ⟨_, hw, _⟩ | ⟨_, _, rfl⟩ | ⟨_, rfl⟩
  · rfl
  · exact absurd hr hready
  · exact absurd hr hready
  · exact absurd hr hready
  · exact absurd hr hready
  · cases hs.symm.trans hw
  · cases ht
  · cases ht

/-- No operation that leaves a pending result pending changes its frame (R43, R50). -/
theorem exec_pending_frame {i : Instr} {s t : State} (hs : s.ctl = .processing) (ht : t.ctl = .processing)
    (h : exec i s = .next t) : t.fb = s.fb ∧ t.flen = s.flen := by
  cases hp : i.levels with
  | none =>
    have hw := exec_resolver_wrote i s t hp h
    obtain ⟨_, hflen, _⟩ := hw.registers
    exact ⟨hw.fb_eq, hflen⟩
  | some p => simp [exec_control_pending hp hs ht h]

/-- A turn of the parser changes the environment's side only (log 1). -/
theorem State.parserTurn_withEnv {s u : State} (h : s.parserTurn = some u) : ∃ agenda pins, u = s.withEnv agenda pins :=
  ⟨_, _, s.parserTurn_eq u h⟩

/-- While PROCESSING the signals select a control transaction only (R125). -/
theorem State.select_processing {s : State} {i : Instr} (hs : s.ctl = .processing) (h : s.select = some i) :
    ∃ p, i.levels = some p := by
  simp only [State.select, hs] at h
  split_ifs at h <;> cases h <;> exact ⟨_, rfl⟩

/-- Settles O53: a turn of the parser that keeps the result pending holds the whole state, and an operation's word keeps the frame. -/
theorem pendingFrameStandsStill : Obligations.PendingFrameStandsStill := by
  intro s t hs ht h hwrite
  rcases step_cases s t h with ⟨u, hu, _, rfl⟩ | ⟨u, i, hu, hi, he⟩ | ⟨a, b, rest, hmove, _⟩ | ⟨w, rest, i, hmove, _, he⟩
  · obtain ⟨_, _, rfl⟩ := State.parserTurn_withEnv hu
    exact ⟨rfl, rfl, fun _ => rfl⟩
  · obtain ⟨agenda, pins, rfl⟩ := State.parserTurn_withEnv hu
    have hs' : (s.withEnv agenda pins).ctl = .processing := hs
    obtain ⟨p, hp⟩ := State.select_processing hs' hi
    rw [exec_control_pending hp hs' ht he]
    exact ⟨rfl, rfl, fun _ => rfl⟩
  · exact absurd hmove (hwrite a b rest)
  · obtain ⟨hfb, hflen⟩ := exec_pending_frame (by simpa using hs) ht he
    exact ⟨by simpa using hfb, by simpa using hflen, fun hword => absurd hmove (hword w rest)⟩

/-- An operation adds to the results taken only where it is the sink's acceptance of the pending one (R54, R133). -/
theorem exec_emitted {i : Instr} {s t : State} (h : exec i s = .next t) :
    t.emitted = s.emitted ∨ (i = .outAccept ∧ s.ctl = .processing ∧ t = s.acceptResult) := by
  cases hp : i.levels with
  | none => exact .inl (exec_resolver_wrote i s t hp h).emitted_eq
  | some p =>
    rcases exec_control_cases i s t p hp h with rfl | ⟨_, _, _, _, _, _, _, _, rfl⟩ | ⟨_, _, _, rfl⟩ | ⟨_, _, _, rfl⟩ |
      ⟨_, _, rfl⟩ | ⟨_, _, rfl⟩ | haccept | ⟨_, rfl⟩
    case inr.inr.inr.inr.inr.inr.inl => exact .inr haccept
    all_goals exact .inl (by simp)

/-- The signals select an acceptance only where the sink is ready (R17). -/
theorem State.outReady_of_select {s : State} (h : s.select = some .outAccept) : s.pins.outReady = true := by
  unfold State.select at h
  split at h
  · cases h
  split at h
  · unfold decodeInput at h
    split_ifs at h <;> cases h
  · split_ifs at h with hready
    exact hready
  · cases h
  · cases h

/-- A write of the Capture Source is no acceptance (R43). -/
theorem State.hostWrite_emitted {s t : State} {a : Nat} {b : Byte} (h : State.hostWrite a b s = .next t) :
    t.emitted = s.emitted := by
  obtain ⟨_, ⟨_, rfl⟩ | ⟨_, rfl⟩⟩ := s.hostWrite_cases t a b h <;> rfl

/-- Settles O55: the one operation that emits is the acceptance, and both ways to it have `out_ready` driven. -/
theorem resultsLeaveOneByOne : Obligations.ResultsLeaveOneByOne := by
  intro s t h
  rcases step_cases s t h with ⟨u, hu, _, rfl⟩ | ⟨u, i, hu, hi, he⟩ | ⟨_, _, _, _, hw⟩ | ⟨_, rest, i, _, _, he⟩
  · obtain ⟨_, _, rfl⟩ := State.parserTurn_withEnv hu
    exact .inl rfl
  · obtain ⟨agenda, pins, rfl⟩ := State.parserTurn_withEnv hu
    rcases exec_emitted he with hsame | ⟨rfl, hs, rfl⟩
    · exact .inl hsame
    · have hready : pins.outReady = true := State.outReady_of_select hi
      exact .inr ⟨hs, rfl, hready, rfl⟩
  · exact .inl (State.hostWrite_emitted hw :)
  · rcases exec_emitted he with hsame | ⟨rfl, hs, rfl⟩
    · exact .inl (by simpa using hsame)
    · exact .inr ⟨hs, rfl, rfl, rfl⟩

end Sys2Proof.Machine

/-! ## Which views a resolution holds (O31) -/

namespace Sys2Proof.Machine

open Sys2Proof.Claims

/-- An optional value is there exactly when `P` holds, and is then `x`. -/
def PresentWhen {α : Type} (o : Option α) (P : Prop) (x : α) : Prop := (P ∧ o = some x) ∨ (¬P ∧ o = none)

section
variable {α : Type} {o : Option α} {P : Prop} {x : α}

theorem PresentWhen.isSome_iff (h : PresentWhen o P x) : o.isSome = true ↔ P := by
  rcases h with ⟨hP, rfl⟩ | ⟨hP, rfl⟩ <;> simp [hP]

theorem PresentWhen.eq_of_some (h : PresentWhen o P x) {v : α} (hv : o = some v) : P ∧ v = x := by
  rcases h with ⟨hP, rfl⟩ | ⟨_, rfl⟩
  · cases hv; exact ⟨hP, rfl⟩
  · cases hv

end

theorem Frame.tcpAt_eq (f : Frame) : f.tcpAt = 14 + (loNibble (f.byteAt 14)).toNat * 4 := by rw [Frame.tcpAt, f.ipOf_len]

/-- The second row of R51 with the clauses the IPv4 stage tests first written first. -/
theorem hasIp_iff (f : Frame) :
    hasIp f ↔ 15 ≤ f.len ∧ f.ethOf.ethertype = 0x0800 ∧ 5 ≤ (loNibble (f.byteAt 14)).toNat ∧ f.tcpAt ≤ f.len ∧
      hiNibble (f.byteAt 14) = 4 := by
  rw [f.tcpAt_eq]
  constructor
  · rintro ⟨_, he, h15, hl, h5, h4⟩
    exact ⟨h15, he, h5, hl, h4⟩
  · rintro ⟨h15, he, h5, hl, h4⟩
    exact ⟨show 14 ≤ f.len by omega, he, h15, hl, h5, h4⟩

/-- The third row of R51 in the terms of the TCP stage. -/
theorem hasTcp_iff (f : Frame) :
    hasTcp f ↔ hasIp f ∧ f.ipOf.protocol = 6 ∧ f.tcpAt + 13 ≤ f.len ∧
      5 ≤ (hiNibble (f.byteAt (f.tcpAt + 12))).toNat ∧
      f.tcpAt + (hiNibble (f.byteAt (f.tcpAt + 12))).toNat * 4 ≤ f.len := by
  have ht : tcpBase f = f.tcpAt := f.tcpAt_eq.symm
  unfold hasTcp doffOf
  rw [ht]
  constructor
  · rintro ⟨hip, h6, h13, hl, h5⟩
    exact ⟨hip, h6, h13, h5, hl⟩
  · rintro ⟨hip, h6, h13, h5, hl⟩
    exact ⟨hip, h6, h13, hl, h5⟩

/-- `r` holds the views of the headers that R51 gives the frame, and no others. -/
structure Frame.ViewsIn (f : Frame) (r : Res) : Prop where
  eth : PresentWhen r.eth (hasEth f) f.ethOf
  ip : PresentWhen r.ip (hasIp f) f.ipOf
  tcp : PresentWhen r.tcp (hasTcp f) (f.tcpOf f.tcpAt)

section
variable {f : Frame} {r : Res}

/-- A frame with an Ethernet header only. -/
theorem Frame.ViewsIn.ethOnly (h14 : 14 ≤ f.len) (hip : ¬hasIp f) (he : r.eth = some f.ethOf) (hi : r.ip = none)
    (ht : r.tcp = none) : f.ViewsIn r :=
  ⟨.inl ⟨h14, he⟩, .inr ⟨hip, hi⟩, .inr ⟨fun htcp => hip htcp.1, ht⟩⟩

/-- A frame with an Ethernet and an IPv4 header only. -/
theorem Frame.ViewsIn.ethIp (hip : hasIp f) (htcp : ¬hasTcp f) (he : r.eth = some f.ethOf) (hi : r.ip = some f.ipOf)
    (ht : r.tcp = none) : f.ViewsIn r :=
  ⟨.inl ⟨hip.1, he⟩, .inl ⟨hip, hi⟩, .inr ⟨htcp, ht⟩⟩

end

/-- The TCP part of a resolution adds the TCP view exactly where R51 has a TCP header. -/
theorem chainAfterIpv4_viewsIn {f : Frame} {r : Res} {c : BitVec 7} (hip : hasIp f)
    (h : chainAfterIpv4 f f.resIp f.ipOf = some (r, c)) : f.ViewsIn r := by
  have hiff := hasTcp_iff f
  rcases chainAfterIpv4_cases f with ⟨h6, h'⟩ | ⟨h6, r', h', hr⟩ <;> cases h.symm.trans h'
  · exact .ethIp hip (fun ht => by obtain ⟨_, h6', _⟩ := hiff.mp ht; exact h6 h6') rfl rfl rfl
  · rcases hr with ⟨h13, rfl⟩ | ⟨_, h5, rfl⟩ | ⟨_, _, hl, rfl⟩ | ⟨h13, h5, hl, rfl⟩
    · exact .ethIp hip (fun ht => by have := hiff.mp ht; omega) rfl rfl rfl
    · exact .ethIp hip (fun ht => by have := hiff.mp ht; omega) rfl rfl rfl
    · exact .ethIp hip (fun ht => by have := hiff.mp ht; omega) rfl rfl rfl
    · exact ⟨.inl ⟨hip.1, rfl⟩, .inl ⟨hip, rfl⟩, .inl ⟨hiff.mpr ⟨hip, h6, h13, h5, hl⟩, rfl⟩⟩

/-- A resolution holds the views of the frame's headers, whichever way it ends (R51). -/
theorem chainResolve_viewsIn {f : Frame} {r : Res} {c : BitVec 7} (h : chainResolve f = some (r, c)) : f.ViewsIn r := by
  have hiff := hasIp_iff f
  rcases chainResolve_cases f with ⟨h14, h'⟩ | ⟨h14, he, h'⟩ | ⟨h14, _, h'⟩ | ⟨h15, _, h5, h'⟩ | ⟨h15, _, _, hl, h'⟩ |
    ⟨h15, _, _, _, h4, h'⟩ | ⟨h15, he, h5, hl, h4, h'⟩ <;> rw [h'] at h
  case inr.inr.inr.inr.inr.inr => exact chainAfterIpv4_viewsIn (hiff.mpr ⟨h15, he, h5, hl, h4⟩) h
  all_goals cases h
  · have heth : ¬hasEth f := Nat.not_le.mpr h14
    exact ⟨.inr ⟨heth, rfl⟩, .inr ⟨fun hip => heth hip.1, rfl⟩, .inr ⟨fun htcp => heth htcp.1.1, rfl⟩⟩
  · exact .ethOnly h14 (fun hip => by obtain ⟨_, he', _⟩ := hiff.mp hip; exact he he') rfl rfl rfl
  · exact .ethOnly (by omega) (fun hip => by have := hiff.mp hip; omega) rfl rfl rfl
  · exact .ethOnly (by omega) (fun hip => by have := hiff.mp hip; omega) rfl rfl rfl
  · exact .ethOnly (by omega) (fun hip => by have := hiff.mp hip; omega) rfl rfl rfl
  · exact .ethOnly (by omega) (fun hip => by obtain ⟨_, _, _, _, h4'⟩ := hiff.mp hip; exact h4 h4') rfl rfl rfl

/-- The TCP view starts where the IPv4 header ends: 7 bits hold it (R28, R66). -/
theorem Frame.tcpOf_off (f : Frame) : (f.tcpOf f.tcpAt).off.toNat = f.tcpAt := by
  have hle : f.tcpAt ≤ 74 := f.tcpStart_le
  exact Nat.mod_eq_of_lt (by omega)

/-- Settles O31: presence and value of each view come from R51's rows, and the ranges from 5 ≤ IHL, DOFF ≤ 15. -/
theorem headerRegionsOfAFrame : Obligations.HeaderRegionsOfAFrame := by
  intro f r c h
  obtain ⟨heth, hip, htcp⟩ := chainResolve_viewsIn h
  refine ⟨heth.isSome_iff, hip.isSome_iff, htcp.isSome_iff, fun v hv => ?_, fun v hv => ?_, fun v w hv hw => ?_⟩
  · exact ⟨rfl, rfl, (heth.eq_of_some hv).1⟩
  · obtain ⟨hP, rfl⟩ := hip.eq_of_some hv
    obtain ⟨_, _, h5, hl, _⟩ := (hasIp_iff f).mp hP
    have h16 : (loNibble (f.byteAt 14)).toNat < 16 := (loNibble (f.byteAt 14)).isLt
    have hlen := f.ipOf_len
    exact ⟨rfl, hlen, by omega, by omega, hl⟩
  · obtain ⟨_, rfl⟩ := hip.eq_of_some hv
    obtain ⟨hP, rfl⟩ := htcp.eq_of_some hw
    obtain ⟨_, _, _, h5, hl⟩ := (hasTcp_iff f).mp hP
    have h16 : (hiNibble (f.byteAt (f.tcpAt + 12))).toNat < 16 := (hiNibble (f.byteAt (f.tcpAt + 12))).isLt
    have hlen := f.tcpOf_len f.tcpAt
    have hoff := f.tcpOf_off
    exact ⟨hoff, hlen, by omega, by omega, by omega⟩

end Sys2Proof.Machine

/-! ## What an accessor reads (O44, O46) -/

namespace Sys2Proof.Machine

open Sys2Proof.Claims

/-- A checked read answers of a function of its bytes what it answers of the bytes. -/
theorem Frame.guarded_map {α β : Type} (f : Frame) (a n : Nat) (v : α) (g : α → β) :
    (f.guarded a n v).map g = f.guarded a n (g v) := by
  unfold Frame.guarded
  split <;> rfl

section
variable {α : Type} {s : State}

/-- A read beyond the frame on a present Ethernet view is the mark and no value (R41, log 14). -/
theorem State.putEth_beyond {v : EthView} (hv : s.res.eth = some v) (put : EthView → α → EthView) :
    s.putEth none put = s.addFault .readBeyondFrame := by
  simp [State.putEth, hv]

/-- A read beyond the frame on a present IPv4 view is the mark and no value (R41, log 14). -/
theorem State.putIp_beyond {v : IpView} (hv : s.res.ip = some v) {x : IpView → Option α} (hx : x v = none)
    (put : IpView → α → IpView) : s.putIp x put = s.addFault .readBeyondFrame := by
  simp [State.putIp, hv, hx]

/-- A read beyond the frame on a present TCP view is the mark and no value (R41, log 14). -/
theorem State.putTcp_beyond {v : TcpView} (hv : s.res.tcp = some v) {x : TcpView → Option α} (hx : x v = none)
    (put : TcpView → α → TcpView) : s.putTcp x put = s.addFault .readBeyondFrame := by
  simp [State.putTcp, hv, hx]

/-- Writing what the Ethernet view already holds, if there is one, changes nothing (R49). -/
theorem State.putEth_idle {x : Option α} {put : EthView → α → EthView}
    (h : ∀ v, s.res.eth = some v → ∃ a, x = some a ∧ put v a = v) : s.putEth x put = s := by
  unfold State.putEth
  cases hv : s.res.eth with
  | none => rfl
  | some v =>
    obtain ⟨a, rfl, hput⟩ := h v hv
    simp only [hput, ← hv]

/-- Writing what the IPv4 view already holds, if there is one, changes nothing (R49). -/
theorem State.putIp_idle {x : IpView → Option α} {put : IpView → α → IpView}
    (h : ∀ v, s.res.ip = some v → ∃ a, x v = some a ∧ put v a = v) : s.putIp x put = s := by
  unfold State.putIp
  cases hv : s.res.ip with
  | none => rfl
  | some v =>
    obtain ⟨a, hx, hput⟩ := h v hv
    simp only [hx, hput, ← hv]

/-- Writing what the TCP view already holds, if there is one, changes nothing (R49). -/
theorem State.putTcp_idle {x : TcpView → Option α} {put : TcpView → α → TcpView}
    (h : ∀ v, s.res.tcp = some v → ∃ a, x v = some a ∧ put v a = v) : s.putTcp x put = s := by
  unfold State.putTcp
  cases hv : s.res.tcp with
  | none => rfl
  | some v =>
    obtain ⟨a, hx, hput⟩ := h v hv
    simp only [hx, hput, ← hv]

end

/-- Operation `i` puts one checked read of the `n` bytes at `a` into a field of the Ethernet view, the field that holds them in the view
of the frame (R59). -/
def State.ReadsEth (s : State) (i : Instr) (a n : Nat) : Prop :=
  ∃ (α : Type) (x : α) (put : EthView → α → EthView),
    exec i s = s.resolverStep (s.putEth (s.frame.guarded a n x) put) ∧ put s.frame.ethOf x = s.frame.ethOf

/-- `State.ReadsEth` for the IPv4 view (R60). -/
def State.ReadsIp (s : State) (i : Instr) (a n : Nat) : Prop :=
  ∃ (α : Type) (x : α) (put : IpView → α → IpView),
    exec i s = s.resolverStep (s.putIp (fun _ => s.frame.guarded a n x) put) ∧ put s.frame.ipOf x = s.frame.ipOf

/-- `State.ReadsEth` for the TCP view, whose bytes are counted from the view's own start (R61, log 14). -/
def State.ReadsTcp (s : State) (i : Instr) (a n : Nat) : Prop :=
  ∃ (α : Type) (x : Nat → α) (put : TcpView → α → TcpView),
    exec i s = s.resolverStep
      (s.putTcp (fun v => s.frame.guarded (v.off.toNat + a) n (x v.off.toNat)) put) ∧
    ∀ t, put (s.frame.tcpOf t) (x t) = s.frame.tcpOf t

/-- The spans of the Ethernet accessors are what they read (R88 to R90). -/
theorem State.readsEth (s : State) : ∀ p ∈ ethSpans, s.ReadsEth p.1 p.2.1 p.2.2 := by
  simp only [ethSpans, List.forall_mem_cons]
  exact ⟨⟨_, _, _, rfl, rfl⟩, ⟨_, _, _, rfl, rfl⟩, ⟨_, _, _, rfl, rfl⟩, nofun⟩

/-- The spans of the IPv4 accessors are what they read (R94, R95, R97 to R104). -/
theorem State.readsIp (s : State) : ∀ p ∈ ipSpans, s.ReadsIp p.1 p.2.1 p.2.2 := by
  simp only [ipSpans, List.forall_mem_cons, State.ReadsIp, exec, execIpVersion, execIpIhl, fieldIpVersion, fieldIpIhl,
    Frame.read1, Frame.guarded_map]
  exact ⟨⟨_, _, _, rfl, rfl⟩, ⟨_, _, _, rfl, rfl⟩, ⟨_, _, _, rfl, rfl⟩, ⟨_, _, _, rfl, rfl⟩, ⟨_, _, _, rfl, rfl⟩,
    ⟨_, _, _, rfl, rfl⟩, ⟨_, _, _, rfl, rfl⟩, ⟨_, _, _, rfl, rfl⟩, ⟨_, _, _, rfl, rfl⟩, ⟨_, _, _, rfl, rfl⟩, nofun⟩

/-- The spans of the TCP accessors are what they read (R109 to R113, R115 to R123). -/
theorem State.readsTcp (s : State) : ∀ p ∈ tcpSpans, s.ReadsTcp p.1 p.2.1 p.2.2 := by
  simp only [tcpSpans, List.forall_mem_cons, State.ReadsTcp, exec, execTcpDoff, fieldTcpDoff, execTcpUrg, fieldTcpUrg,
    execTcpAck, fieldTcpAck, execTcpPsh, fieldTcpPsh, execTcpRst, fieldTcpRst, execTcpSyn, fieldTcpSyn, execTcpFin, fieldTcpFin,
    fieldTcpFlag, Frame.read1, Frame.guarded_map]
  exact ⟨⟨_, fun t => (s.frame.tcpOf t).sport, _, rfl, fun _ => rfl⟩,
    ⟨_, fun t => (s.frame.tcpOf t).dport, _, rfl, fun _ => rfl⟩,
    ⟨_, fun t => (s.frame.tcpOf t).seq, _, rfl, fun _ => rfl⟩,
    ⟨_, fun t => (s.frame.tcpOf t).ackNum, _, rfl, fun _ => rfl⟩,
    ⟨_, fun t => (s.frame.tcpOf t).doff, _, rfl, fun _ => rfl⟩,
    ⟨_, fun t => (s.frame.tcpOf t).urg, _, rfl, fun _ => rfl⟩,
    ⟨_, fun t => (s.frame.tcpOf t).ack, _, rfl, fun _ => rfl⟩,
    ⟨_, fun t => (s.frame.tcpOf t).psh, _, rfl, fun _ => rfl⟩,
    ⟨_, fun t => (s.frame.tcpOf t).rst, _, rfl, fun _ => rfl⟩,
    ⟨_, fun t => (s.frame.tcpOf t).syn, _, rfl, fun _ => rfl⟩,
    ⟨_, fun t => (s.frame.tcpOf t).fin, _, rfl, fun _ => rfl⟩,
    ⟨_, fun t => (s.frame.tcpOf t).window, _, rfl, fun _ => rfl⟩,
    ⟨_, fun t => (s.frame.tcpOf t).checksum, _, rfl, fun _ => rfl⟩,
    ⟨_, fun t => (s.frame.tcpOf t).urgPtr, _, rfl, fun _ => rfl⟩, nofun⟩

section
variable {s : State} {i : Instr} {a n : Nat}

theorem State.ReadsEth.beyond (h : s.ReadsEth i a n) (hrun : s.running = true) {v : EthView} (hv : s.res.eth = some v)
    (hlt : s.flen < a + n) : exec i s = .next (s.addFault .readBeyondFrame) := by
  obtain ⟨_, x, put, he, _⟩ := h
  rw [he, s.resolverStep_running _ hrun, s.frame.guarded_of_gt a n x hlt, State.putEth_beyond hv]

theorem State.ReadsIp.beyond (h : s.ReadsIp i a n) (hrun : s.running = true) {v : IpView} (hv : s.res.ip = some v)
    (hlt : s.flen < a + n) : exec i s = .next (s.addFault .readBeyondFrame) := by
  obtain ⟨_, x, put, he, _⟩ := h
  rw [he, s.resolverStep_running _ hrun, State.putIp_beyond hv (s.frame.guarded_of_gt a n x hlt)]

theorem State.ReadsTcp.beyond (h : s.ReadsTcp i a n) (hrun : s.running = true) {v : TcpView} (hv : s.res.tcp = some v)
    (hlt : s.flen < v.off.toNat + a + n) : exec i s = .next (s.addFault .readBeyondFrame) := by
  obtain ⟨_, x, put, he, _⟩ := h
  have hnone := s.frame.guarded_of_gt (v.off.toNat + a) n (x v.off.toNat) hlt
  rw [he, s.resolverStep_running _ hrun]
  exact congrArg _ (State.putTcp_beyond hv hnone put)

theorem State.ReadsEth.idle (h : s.ReadsEth i a n) (hrun : s.running = true)
    (hv : ∀ v, s.res.eth = some v → v = s.frame.ethOf ∧ a + n ≤ s.flen) : exec i s = .next s := by
  obtain ⟨_, x, put, he, hput⟩ := h
  rw [he, s.resolverStep_running _ hrun, State.putEth_idle]
  intro v hsome
  obtain ⟨rfl, hle⟩ := hv v hsome
  exact ⟨x, s.frame.guarded_of_le a n x hle, hput⟩

theorem State.ReadsIp.idle (h : s.ReadsIp i a n) (hrun : s.running = true)
    (hv : ∀ v, s.res.ip = some v → v = s.frame.ipOf ∧ a + n ≤ s.flen) : exec i s = .next s := by
  obtain ⟨_, x, put, he, hput⟩ := h
  rw [he, s.resolverStep_running _ hrun, State.putIp_idle]
  intro v hsome
  obtain ⟨rfl, hle⟩ := hv v hsome
  exact ⟨x, s.frame.guarded_of_le a n x hle, hput⟩

theorem State.ReadsTcp.idle (h : s.ReadsTcp i a n) (hrun : s.running = true)
    (hv : ∀ v, s.res.tcp = some v → v = s.frame.tcpOf v.off.toNat ∧ v.off.toNat + a + n ≤ s.flen) : exec i s = .next s := by
  obtain ⟨_, x, put, he, hput⟩ := h
  rw [he, s.resolverStep_running _ hrun, State.putTcp_idle]
  intro v hsome
  obtain ⟨hof, hle⟩ := hv v hsome
  have hsame := hput v.off.toNat
  rw [← hof] at hsame
  exact ⟨x v.off.toNat, s.frame.guarded_of_le _ n _ hle, hsame⟩

end

/-- Settles O44: each accessor is one checked read of its span, and the check fails. -/
theorem readsBeyondTheFrameAreFaults : Obligations.ReadsBeyondTheFrameAreFaults := fun s hrun =>
  ⟨fun _ hv p hp hlt => (s.readsEth p hp).beyond hrun hv hlt, fun _ hv p hp hlt => (s.readsIp p hp).beyond hrun hv hlt,
    fun _ hv p hp hlt => (s.readsTcp p hp).beyond hrun hv hlt⟩

/-- IP.LEN changes nothing where the view holds IHL × 4 (R96). -/
theorem exec_ipLen_idle {s : State} (hrun : s.running = true) (h : ∀ v, s.res.ip = some v → v.len = fieldIpLen v.ihl) :
    exec .ipLen s = .next s := by
  have hidle : s.putIp (fun v => some (fieldIpLen v.ihl)) (fun v x => { v with len := x }) = s :=
    State.putIp_idle fun v hv => ⟨_, rfl, by rw [← h v hv]⟩
  exact (s.resolverStep_running _ hrun).trans (congrArg _ hidle)

/-- TCP.LEN changes nothing where the view holds DOFF × 4 (R114). -/
theorem exec_tcpLen_idle {s : State} (hrun : s.running = true) (h : ∀ v, s.res.tcp = some v → v.len = fieldTcpLen v.doff) :
    exec .tcpLen s = .next s := by
  have hidle : s.putTcp (fun v => some (fieldTcpLen v.doff)) (fun v x => { v with len := x }) = s :=
    State.putTcp_idle fun v hv => ⟨_, rfl, by rw [← h v hv]⟩
  exact (s.resolverStep_running _ hrun).trans (congrArg _ hidle)

/-- The accessors are those that read the frame and the two that scale a header length (R96, R114). -/
theorem accessors_cases : ∀ i ∈ accessors,
    (∃ p ∈ ethSpans, i = p.1) ∨ (∃ p ∈ ipSpans, i = p.1) ∨ i = .ipLen ∨ (∃ p ∈ tcpSpans, i = p.1) ∨ i = .tcpLen := by
  decide

/-- The Ethernet fields lie in the header's 14 bytes (R59). -/
theorem ethSpans_le : ∀ p ∈ ethSpans, p.2.1 + p.2.2 ≤ 14 := by decide

/-- The IPv4 fields lie in the fixed part of the header, which ends at 34 (R60). -/
theorem ipSpans_le : ∀ p ∈ ipSpans, p.2.1 + p.2.2 ≤ 34 := by decide

/-- The TCP fields lie in the fixed part of the header, 20 bytes from its start (R61). -/
theorem tcpSpans_le : ∀ p ∈ tcpSpans, p.2.1 + p.2.2 ≤ 20 := by decide

/-- A frame with an IPv4 header holds its fixed part. -/
theorem le_len_of_hasIp {f : Frame} (h : hasIp f) : 34 ≤ f.len := by
  obtain ⟨_, _, h5, hl, _⟩ := (hasIp_iff f).mp h
  rw [f.tcpAt_eq] at hl
  omega

/-- A frame with a TCP header holds its fixed part. -/
theorem le_len_of_hasTcp {f : Frame} (h : hasTcp f) : f.tcpAt + 20 ≤ f.len := by
  obtain ⟨_, _, _, h5, hl⟩ := (hasTcp_iff f).mp h
  omega

/-- Settles O46: a view of the resolution is the frame's, its fields lie inside the frame, so each accessor writes what is there. -/
theorem accessorsAgreeWithTheResolvedViews : Obligations.AccessorsAgreeWithTheResolvedViews := by
  intro s c hrun h i hi
  obtain ⟨heth, hip, htcp⟩ := chainResolve_viewsIn h
  rcases accessors_cases i hi with ⟨p, hp, rfl⟩ | ⟨p, hp, rfl⟩ | rfl | ⟨p, hp, rfl⟩ | rfl
  · refine (s.readsEth p hp).idle hrun fun v hv => ?_
    obtain ⟨hP, hof⟩ := heth.eq_of_some hv
    exact ⟨hof, (ethSpans_le p hp).trans hP⟩
  · refine (s.readsIp p hp).idle hrun fun v hv => ?_
    obtain ⟨hP, hof⟩ := hip.eq_of_some hv
    exact ⟨hof, (ipSpans_le p hp).trans (le_len_of_hasIp hP)⟩
  · exact exec_ipLen_idle hrun fun v hv => by rw [(hip.eq_of_some hv).2]; rfl
  · refine (s.readsTcp p hp).idle hrun fun v hv => ?_
    obtain ⟨hP, rfl⟩ := htcp.eq_of_some hv
    have hspan := tcpSpans_le p hp
    have hlen : s.frame.tcpAt + 20 ≤ s.flen := le_len_of_hasTcp hP
    rw [s.frame.tcpOf_off]
    exact ⟨rfl, by omega⟩
  · exact exec_tcpLen_idle hrun fun v hv => by rw [(htcp.eq_of_some hv).2]; rfl

end Sys2Proof.Machine

/-! ## The decoder undoes the encoder (O1, O3) -/

namespace Sys2Proof

/-- A number of `n` bytes is split off whole, whatever follows it. -/
theorem splitBytes_beBytes (n v : Nat) (bs : List Byte) : splitBytes n (beBytes n v ++ bs) = some (beBytes n v, bs) := by
  simpa using splitBytes_append (beBytes n v) bs

/-- The bytes of a length of `LEN_W` bits spell it (R9). -/
theorem beValue_lenBytes {c : Params} {len : Nat} (h : len < 2 ^ c.lenW) : beValue (beBytes c.lenBytes len) = len :=
  beValue_beBytes _ _ (lt_pow_bytes _ _ h)

/-- The bytes of a cause of `CAUSE_W` bits spell it (R9). -/
theorem beValue_causeBytes {c : Params} {cause : Nat} (h : cause < 2 ^ c.causeW) :
    beValue (beBytes c.causeBytes cause) = cause :=
  beValue_beBytes _ _ (lt_pow_bytes _ _ h)

/-- An accepted length takes that many bytes after it (R128). -/
theorem decodeFrame_inFrame {c : Params} {data : List Byte} (h : data.length ≤ c.maxFrameLen) (rest : List Byte) :
    decodeFrame c (beBytes c.lenBytes data.length ++ (data ++ rest)) = .ok (.inFrame data.length data, rest) := by
  simp [decodeFrame, splitBytes_beBytes, beValue_lenBytes (c.lt_pow_lenW _ h), h, splitBytes_append]

/-- An oversize length takes no byte after it (R129). -/
theorem decodeFrame_inFrameOversize {c : Params} {len : Nat} (h : c.maxFrameLen < len) (hw : len < 2 ^ c.lenW)
    (rest : List Byte) : decodeFrame c (beBytes c.lenBytes len ++ rest) = .ok (.inFrameOversize len, rest) := by
  simp [decodeFrame, splitBytes_beBytes, beValue_lenBytes hw, Nat.not_le.mpr h, hw]

/-- A cause that fits its signal is read back (R131). -/
theorem decodeFatal_inFatal {c : Params} {cause : Nat} (h : cause < 2 ^ c.causeW) (rest : List Byte) :
    decodeFatal c (beBytes c.causeBytes cause ++ rest) = .ok (.inFatal cause, rest) := by
  simp [decodeFatal, splitBytes_beBytes, beValue_causeBytes h, h]

/-- An accessor's word is six bytes, the first one of the formats 6, 7 and 8 (R59 to R61). -/
theorem accessorWord_format : ∀ i ∈ accessors, (accessorWord i).length = 6 ∧
    ((accessorWord i).head? = some 6 ∨ (accessorWord i).head? = some 7 ∨ (accessorWord i).head? = some 8) := by
  decide

/-- The first accessor with an accessor's word is that accessor: no two share one (R59 to R61). -/
theorem find?_accessorWord : ∀ i ∈ accessors, accessors.find? (fun j => accessorWord j == accessorWord i) = some i := by
  decide

/-- A word of one of the accessors' formats is read as an accessor's. -/
theorem decode_of_accessor_format (c : Params) {bs : List Byte} (h : bs.head? = some 6 ∨ bs.head? = some 7 ∨ bs.head? = some 8)
    (rest : List Byte) : decode c (bs ++ rest) = decodeAccessor (bs ++ rest) := by
  cases bs with
  | nil => simp at h
  | cons f bs =>
    simp only [List.head?_cons, Option.some.injEq] at h
    rcases h with rfl | rfl | rfl <;> rfl

/-- An accessor's word is its field position (R59 to R61). -/
theorem encode_accessor (c : Params) : ∀ i ∈ accessors, encode c i = accessorWord i :=
  List.map_inj_left.mp rfl

/-- An accessor is read back from its word. -/
theorem decode_encode_accessor (c : Params) {i : Instr} (hi : i ∈ accessors) (rest : List Byte) :
    decode c (encode c i ++ rest) = .ok (i, rest) := by
  obtain ⟨hlen, hformat⟩ := accessorWord_format i hi
  have hsplit : splitBytes 6 (accessorWord i ++ rest) = some (accessorWord i, rest) := hlen ▸ splitBytes_append _ _
  rw [encode_accessor c i hi, decode_of_accessor_format c hformat, decodeAccessor, hsplit]
  simp only [find?_accessorWord i hi]

/-- A well-formed operation is read back from its word, whatever bytes follow: the operands of the input channel by their lengths, the
other words by their own bytes. -/
theorem decode_encode_append {c : Params} {i : Instr} (h : i.wf c = true) (rest : List Byte) :
    decode c (encode c i ++ rest) = .ok (i, rest) := by
  cases i with
  | inFrame len data =>
    obtain ⟨hle, rfl⟩ : len ≤ c.maxFrameLen ∧ data.length = len := by simpa [Instr.wf] using h
    rw [← decodeFrame_inFrame hle rest, ← List.append_assoc]
    rfl
  | inFrameOversize len =>
    obtain ⟨hgt, hlt⟩ : c.maxFrameLen < len ∧ len < 2 ^ c.lenW := by simpa [Instr.wf] using h
    exact decodeFrame_inFrameOversize hgt hlt rest
  | inFatal cause => exact decodeFatal_inFatal (by simpa [Instr.wf] using h) rest
  | inEmpty | inReserved | stop | outAccept | reset | chainResolve | ethResolve | ipv4Resolve | tcpResolve => rfl
  | _ => exact decode_encode_accessor c (by decide) rest

/-- Settles O1: the word of each format is read back, its operands because they fit their bytes. -/
theorem operationWordsRoundTrip : Obligations.OperationWordsRoundTrip :=
  fun _ _ rest h => decode_encode_append h rest

/-- Settles O3: the accepted words are those of the encoder, and 0x0008 is not the selector of R76. -/
theorem writtenOutWordsDecode : Obligations.WrittenOutWordsDecode :=
  ⟨by decide, decode_encode_append (i := .ipv4Resolve) rfl [], by decide, decode_encode_append (i := .tcpResolve) rfl [],
    decode_encode_append (i := .ethEthertype) rfl [], decode_encode_append (i := .ipIhl) rfl [],
    decode_encode_append (i := .tcpDoff) rfl []⟩

end Sys2Proof

/-! ## The operation the input channel selects (O4, O5) -/

namespace Sys2Proof

section
variable {c : Params} {p : Levels}

/-- A frame of an accepted length, cut at it (R62, R128; log 15). -/
theorem decodeInput_frame (hk : p.inKind = 0b00#2) (hl : p.inLen ≤ c.maxFrameLen) :
    decodeInput c p = .inFrame p.inLen (p.inData.take p.inLen) := by
  simp [decodeInput, hk, Nat.mod_eq_of_lt (c.lt_pow_lenW _ hl), hl]

/-- A frame above `MAX_FRAME_LEN` whose length its signal carries (R62, R129). -/
theorem decodeInput_oversize (hk : p.inKind = 0b00#2) (hl : c.maxFrameLen < p.inLen) (hw : p.inLen < 2 ^ c.lenW) :
    decodeInput c p = .inFrameOversize p.inLen := by
  simp [decodeInput, hk, Nat.mod_eq_of_lt hw, Nat.not_le.mpr hl]

theorem decodeInput_empty (hk : p.inKind = 0b01#2) : decodeInput c p = .inEmpty := by simp [decodeInput, hk]

theorem decodeInput_fatal (hk : p.inKind = 0b10#2) (hw : p.inCause < 2 ^ c.causeW) :
    decodeInput c p = .inFatal p.inCause := by
  simp [decodeInput, hk, Nat.mod_eq_of_lt hw]

theorem decodeInput_reserved (hk : p.inKind = 0b11#2) : decodeInput c p = .inReserved := by simp [decodeInput, hk]

end

end Sys2Proof

namespace Sys2Proof.Machine

/-- An input offered to a WAITING machine with no reset and no stop is the one transferred (R15, R16, R126). -/
theorem State.select_input {s : State} (hw : s.ctl = .waiting) (hr : s.pins.rst = false) (hs : s.pins.stopReq = false)
    (hv : s.pins.inValid = true) : s.select = some (decodeInput s.cfg s.pins) := by
  simp [State.select, hw, hr, hs, hv]

/-- Settles O4: each code of `in_kind` is one branch of the input channel's decoder. -/
theorem inKindSelectsTheInputOperation : Obligations.InKindSelectsTheInputOperation := by
  intro s hw hr hs hv hlen hcause
  rw [State.select_input hw hr hs hv]
  exact ⟨fun hk hl => congrArg some (decodeInput_frame hk hl), fun hk hl => congrArg some (decodeInput_oversize hk hl hlen),
    fun hk => congrArg some (decodeInput_empty hk), fun hk => congrArg some (decodeInput_fatal hk hcause),
    fun hk => congrArg some (decodeInput_reserved hk)⟩

/-- The levels that offer a well-formed input are read as that input (R62). -/
theorem decodeInput_levels {c : Params} {i : Instr} {p : Levels} (hwf : i.wf c = true) (hp : i.levels = some p)
    (hv : p.inValid = true) : decodeInput c p = i := by
  cases i with
  | inFrame len data =>
    cases hp
    obtain ⟨hle, rfl⟩ : len ≤ c.maxFrameLen ∧ data.length = len := by simpa [Instr.wf] using hwf
    rw [decodeInput_frame rfl hle, List.take_length]
  | inFrameOversize len =>
    cases hp
    obtain ⟨hgt, hlt⟩ : c.maxFrameLen < len ∧ len < 2 ^ c.lenW := by simpa [Instr.wf] using hwf
    exact decodeInput_oversize rfl hgt hlt
  | inEmpty => cases hp; exact decodeInput_empty rfl
  | inFatal cause =>
    cases hp
    exact decodeInput_fatal rfl (by simpa [Instr.wf] using hwf)
  | inReserved => cases hp; exact decodeInput_reserved rfl
  | stop | outAccept | reset => cases hp; cases hv
  | _ => cases hp

/-- The levels that offer a well-formed operation select it, in the STATE of its row of R125: an input through the input channel's
decoder, the others by their own signal. -/
theorem State.select_levels {s : State} {i : Instr} {p : Levels} (hwf : i.wf s.cfg = true) (hp : i.levels = some p)
    (hc : s.ctl = ctlFor i s.ctl) : ({ s with pins := p } : State).select = some i := by
  cases i with
  | reset => cases hp; rfl
  | stop =>
    cases hp
    have hw : s.ctl = .waiting := hc
    simp [State.select, Levels.idle, hw]
  | outAccept =>
    cases hp
    have hw : s.ctl = .processing := hc
    simp [State.select, Levels.idle, hw]
  | inFrame | inFrameOversize | inEmpty | inFatal | inReserved =>
    obtain ⟨hr, hs, hv⟩ : p.rst = false ∧ p.stopReq = false ∧ p.inValid = true := by cases hp; exact ⟨rfl, rfl, rfl⟩
    rw [State.select_input (s := { s with pins := p }) hc hr hs hv]
    exact congrArg some (decodeInput_levels hwf hp hv)
  | _ => cases hp

/-- Settles O5: the levels of a boundary operation select it, whichever operation it is. -/
theorem signalsOfAnOperationSelectIt : Obligations.SignalsOfAnOperationSelectIt :=
  fun _ _ _ hwf hp hc => State.select_levels hwf hp hc

end Sys2Proof.Machine

/-! ## The operation a step runs (O8, O9) -/

namespace Sys2Proof.Machine

/-- A step whose move is the word of one operation runs it (log 10). -/
theorem step_operation {s : State} {w : List Byte} {rest : List Move} {i : Instr} (ha : s.agenda = .operation w :: rest)
    (hd : decode s.cfg w = .ok (i, [])) : step s = exec i (({ s with agenda := rest } : State).withPinsOf i) := by
  simp only [step, takeMove, ha, runWord, hd]

/-- Settles O8: the word decides the operation, well-formed because it decodes. -/
theorem stepRunsTheOperationOfAWord : Obligations.StepRunsTheOperationOfAWord :=
  fun _ _ _ _ ha hd _ => step_operation ha hd

/-- In the STATE of an operation's row that STATE is the one its row asks for (R125). -/
theorem ctlFor_ctlFor (i : Instr) (c : Ctl) : ctlFor i (ctlFor i c) = ctlFor i c := by
  cases i <;> rfl

theorem placeOperation_of_levels {s : State} {i : Instr} {p : Levels} (hp : i.levels = some p) :
    placeOperation s i = { s with agenda := .levels p :: s.agenda, ctl := ctlFor i s.ctl } := by
  simp only [placeOperation, hp]

theorem placeOperation_of_word {s : State} {i : Instr} (hp : i.levels = none) :
    placeOperation s i = { s with agenda := .operation (encode s.cfg i) :: s.agenda } := by
  simp only [placeOperation, hp]

theorem State.withPinsOf_of_word {s : State} {i : Instr} (hp : i.levels = none) : s.withPinsOf i = s := by
  simp only [State.withPinsOf, hp]

/-- Settles O9: a boundary operation is selected by its levels, another is read back from its word. -/
theorem placedOperationRunsNext : Obligations.PlacedOperationRunsNext := by
  intro s i hwf
  cases hp : i.levels with
  | some p =>
    have hselect : ({ s with pins := p, ctl := ctlFor i s.ctl } : State).select = some i :=
      State.select_levels (s := { s with ctl := ctlFor i s.ctl }) hwf hp (ctlFor_ctlFor i s.ctl).symm
    rw [placeOperation_of_levels hp]
    exact step_levels rfl hselect
  | none =>
    have hdecode : decode s.cfg (encode s.cfg i) = .ok (i, []) := by simpa using decode_encode_append hwf []
    rw [placeOperation_of_word hp]
    calc step { s with agenda := .operation (encode s.cfg i) :: s.agenda }
        = exec i (s.withPinsOf i) := step_operation rfl hdecode
      _ = exec i s := by rw [State.withPinsOf_of_word hp]

end Sys2Proof.Machine

/-! ## Fields as numbers (O43) -/

namespace Sys2Proof.Machine

/-- A byte appended is the least significant one (R65). -/
theorem toNat_append_byte {w : Nat} (x : BitVec w) (b : Byte) : (x ++ b).toNat = x.toNat * 256 + b.toNat := by
  rw [BitVec.toNat_append, ← Nat.shiftLeft_add_eq_or_of_lt b.isLt, Nat.shiftLeft_eq]

theorem hiNibble_toNat (b : Byte) : (hiNibble b).toNat = b.toNat / 16 := by
  simp only [hiNibble, BitVec.extractLsb'_toNat, Nat.shiftRight_eq_div_pow]
  omega

theorem loNibble_toNat (b : Byte) : (loNibble b).toNat = b.toNat % 16 := by
  simp only [loNibble, BitVec.extractLsb'_toNat, Nat.shiftRight_zero]

/-- A control flag inside the frame is one binary digit of byte T + 13 (R115 to R120). -/
theorem fieldTcpFlag_of_le (k : Nat) {f : Frame} {t : Nat} (h : t + 14 ≤ f.len) :
    fieldTcpFlag k f t = some (decide ((f.byteAt (t + 13)).toNat / 2 ^ k % 2 = 1)) := by
  rw [fieldTcpFlag, f.read1_of_le (t + 13) h, Option.map_some, BitVec.getLsbD, Nat.testBit_eq_decide_div_mod_eq]

/-- Settles O43: a read inside the frame appends its bytes, lowest offset first. -/
theorem fieldsAreAssembledBigEndian : Obligations.FieldsAreAssembledBigEndian := by
  refine fun f a => ⟨fun h => ⟨_, f.read1_of_le a h, rfl⟩, fun h => ⟨_, f.read2_of_le a h, ?_⟩,
    fun h => ⟨_, f.read4_of_le a h, ?_⟩, fun h => ⟨_, f.read6_of_le a h, ?_⟩, hiNibble_toNat _, loNibble_toNat _,
    fun k _ h => fieldTcpFlag_of_le k h⟩
  all_goals simp only [toNat_append_byte]

end Sys2Proof.Machine

/-! ## The interface codes (O60) -/

namespace Sys2Proof.Machine

/-- `err_kind` is the code of RES's error (R63, R140). -/
theorem Res.errKind_of_err (r : Res) : (r.err = none → r.errKind = 0b00#2) ∧
    (∀ st n a, r.err = some (.truncated st n a) → r.errKind = 0b01#2) ∧
    (∀ st w, r.err = some (.invalidLength st w) → r.errKind = 0b10#2) := by
  refine ⟨fun h => ?_, fun _ _ _ h => ?_, fun _ _ h => ?_⟩ <;> simp [Res.errKind, h]

/-- The reserved code of `err_stage` names no stage (R63, R68). -/
theorem HdrStage.code_ne_reserved (st : HdrStage) : st.code ≠ 0b11#2 := by cases st <;> decide

/-- The codes of `chain_end` end at that of ERROR (R63, R68). -/
theorem ChainEnd.code_le (c : ChainEnd) : c.code.toNat ≤ 4 := by cases c <;> decide

/-- Settles O60: every code is the one its table lists. -/
theorem codesAreThoseOfTheTables : Obligations.CodesAreThoseOfTheTables :=
  ⟨⟨rfl, rfl, rfl, rfl⟩, ⟨rfl, rfl, rfl⟩, ⟨rfl, rfl, rfl, rfl, rfl⟩, Res.errKind_of_err, HdrStage.code_ne_reserved,
    ChainEnd.code_le⟩

end Sys2Proof.Machine

/-! ## The chain, given what its stages return (O29) -/

namespace Sys2Proof.Machine

section
variable {f : Frame} {res : Res} {ev : EthView} {iv : IpView}

theorem chainResolve_of_eth_fail {e : ErrRec} (h : ethStage f = some (.fail e)) :
    chainResolve f = some ((Res.start f.len).raise e, 0) := by
  simp only [chainResolve, h]

theorem chainResolve_of_eth_ok (h : ethStage f = some (.ok ev)) :
    chainResolve f = chainAfterEth f { Res.start f.len with eth := some ev } ev := by
  simp only [chainResolve, h]

theorem chainAfterEth_of_not_ipv4 (h : ev.ethertype ≠ 0x0800) :
    chainAfterEth f res ev = some (res.endChain .notIpv4Ethertype, 0) := if_neg h

theorem chainAfterEth_of_ip_fail {e : ErrRec} (he : ev.ethertype = 0x0800) (h : ipv4Stage f = some (.fail e)) :
    chainAfterEth f res ev = some (res.raise e, 14#7) := by
  simp only [chainAfterEth, ethertypeIpv4, ipv4Base, he, h, if_true]

theorem chainAfterEth_of_ip_skip (he : ev.ethertype = 0x0800) (h : ipv4Stage f = some .skip) :
    chainAfterEth f res ev = some (res.endChain .notIpv4Version, 14#7) := by
  simp only [chainAfterEth, ethertypeIpv4, ipv4Base, he, h, if_true]

theorem chainAfterEth_of_ip_ok (he : ev.ethertype = 0x0800) (h : ipv4Stage f = some (.ok iv)) :
    chainAfterEth f res ev = chainAfterIpv4 f { res with ip := some iv } iv := by
  simp only [chainAfterEth, ethertypeIpv4, he, h, if_true]

theorem chainAfterIpv4_of_not_tcp (h : iv.protocol ≠ 6) :
    chainAfterIpv4 f res iv = some (res.endChain .notTcpProtocol, 14#7) := if_neg h

theorem chainAfterIpv4_of_tcp_fail {e : ErrRec} (hp : iv.protocol = 6)
    (h : tcpStage f (14 + iv.len.toNat) = some (.fail e)) :
    chainAfterIpv4 f res iv = some (res.raise e, BitVec.ofNat 7 (14 + iv.len.toNat)) := by
  simp only [chainAfterIpv4, tcpProto, ipv4Base, hp, h, if_true]

theorem chainAfterIpv4_of_tcp_ok {tv : TcpView} (hp : iv.protocol = 6)
    (h : tcpStage f (14 + iv.len.toNat) = some (.ok tv)) :
    chainAfterIpv4 f res iv =
      some (({ res with tcp := some tv }).endChain .complete, BitVec.ofNat 7 (14 + iv.len.toNat)) := by
  simp only [chainAfterIpv4, tcpProto, ipv4Base, hp, h, if_true]

end

/-- No read of a stage is beyond the frame, so each stage answers (R84). -/
theorem ethStage_some (f : Frame) : ∃ x, ethStage f = some x := ⟨_, ethStage_eq f⟩

theorem ipv4Stage_some (f : Frame) : ∃ x, ipv4Stage f = some x := ⟨_, ipv4Stage_eq f⟩

theorem tcpStage_some (f : Frame) (t : Nat) : ∃ x, tcpStage f t = some x := ⟨_, tcpStage_eq f t⟩

/-- CHAIN_RESOLVE writes the frame's resolution and the sequencer, and never the fault of a read beyond the frame (R72, R84). -/
theorem execChainResolve_eq (s : State) :
    ∃ r c, chainResolve s.frame = some (r, c) ∧
      exec .chainResolve s = s.resolverStep { s with res := r, stage := .done, cur := c } := by
  obtain ⟨r, c, h⟩ := chainResolve_some s.frame
  exact ⟨r, c, h, by simp only [exec, execChainResolve, h]; rfl⟩

/-- Settles O29: the RES written is the chain's, and each end of the pseudocode is one equation of the chain. -/
theorem chainResolveComposesTheStages : Obligations.ChainResolveComposesTheStages := by
  intro s hrun
  obtain ⟨r, c, hr, hexec⟩ := execChainResolve_eq s
  rw [s.resolverStep_running _ hrun] at hexec
  have hres : ∀ {r' c'}, chainResolve s.frame = some (r', c') → r = r' := fun h => by
    cases hr.symm.trans h; rfl
  refine ⟨r, _, _, hexec, fun e he => ?_, fun ev he hn => ?_, fun ev e he h4 hi => ?_, fun ev he h4 hi => ?_,
    fun ev iv he h4 hi hn => ?_, fun ev iv e he h4 hi h6 ht => ?_, fun ev iv tv he h4 hi h6 ht => ?_⟩
  · exact hres (chainResolve_of_eth_fail he)
  · exact hres ((chainResolve_of_eth_ok he).trans (chainAfterEth_of_not_ipv4 hn))
  · exact hres ((chainResolve_of_eth_ok he).trans (chainAfterEth_of_ip_fail h4 hi))
  · exact hres ((chainResolve_of_eth_ok he).trans (chainAfterEth_of_ip_skip h4 hi))
  · exact hres (((chainResolve_of_eth_ok he).trans (chainAfterEth_of_ip_ok h4 hi)).trans (chainAfterIpv4_of_not_tcp hn))
  · exact hres (((chainResolve_of_eth_ok he).trans (chainAfterEth_of_ip_ok h4 hi)).trans (chainAfterIpv4_of_tcp_fail h6 ht))
  · exact hres (((chainResolve_of_eth_ok he).trans (chainAfterEth_of_ip_ok h4 hi)).trans (chainAfterIpv4_of_tcp_ok h6 ht))

end Sys2Proof.Machine

/-! ## A resolution reads the frame and nothing else (O34, O35) -/

namespace Sys2Proof.Machine

theorem State.resolverStep_faults {s t u : State} (h : s.resolverStep t = .next u) (ht : t.faults = s.faults) :
    u.faults = s.faults := by
  rcases s.resolverStep_eq t u h with rfl | rfl
  · exact ht
  · rfl

/-- No stage reads beyond the frame, so none records the fault (R84). -/
theorem exec_stage_faults {i : Instr} {s t : State} (hi : i = .ethResolve ∨ i = .ipv4Resolve ∨ i = .tcpResolve)
    (h : exec i s = .next t) : t.faults = s.faults := by
  rcases hi with rfl | rfl | rfl
  · obtain ⟨x, hx⟩ := ethStage_some s.frame
    simp only [exec, execEthResolve, hx] at h
    exact State.resolverStep_faults h rfl
  · obtain ⟨x, hx⟩ := ipv4Stage_some s.frame
    simp only [exec, execIpv4Resolve, hx] at h
    split at h
    · exact State.resolverStep_faults h rfl
    · cases h; rfl
  · simp only [exec, execTcpResolve] at h
    split at h
    · cases h; rfl
    · next t _ =>
      obtain ⟨x, hx⟩ := tcpStage_some s.frame t
      rw [hx] at h
      exact State.resolverStep_faults h rfl

/-- No control transaction records a fault; an IN_FRAME is one, though it resolves its frame (R128). -/
theorem exec_control_faults {i : Instr} {s t : State} {p : Levels} (hp : i.levels = some p) (h : exec i s = .next t) :
    t.faults = s.faults := by
  rcases exec_control_cases i s t p hp h with rfl | ⟨_, _, _, _, _, _, _, _, rfl⟩ | ⟨_, _, _, rfl⟩ | ⟨_, _, _, rfl⟩ |
    ⟨_, _, rfl⟩ | ⟨_, _, rfl⟩ | ⟨_, _, rfl⟩ | ⟨_, rfl⟩ <;> rfl

/-- Settles O34: the chain is total on frames, so neither it nor a stage of it takes the branch that records the fault. -/
theorem resolutionsReadInsideTheFrame : Obligations.ResolutionsReadInsideTheFrame := by
  refine ⟨chainResolve_some, fun s t i hi h => ?_⟩
  rcases hi with rfl | rfl | rfl | rfl | ⟨len, data, rfl⟩
  · obtain ⟨r, c, _, hexec⟩ := execChainResolve_eq s
    exact State.resolverStep_faults (hexec.symm.trans h) rfl
  · exact exec_stage_faults (.inl rfl) h
  · exact exec_stage_faults (.inr (.inl rfl)) h
  · exact exec_stage_faults (.inr (.inr rfl)) h
  · exact exec_control_faults rfl h

/-- Settles O35: equal lengths and equal bytes below them are all the chain reads. -/
theorem resolutionIgnoresBytesBeyondTheFrame : Obligations.ResolutionIgnoresBytesBeyondTheFrame :=
  fun _ _ hlen hbyte => Frame.Agrees.chainResolve ⟨hlen, hbyte⟩

end Sys2Proof.Machine

/-! ## The ranges of a resolution (O33) -/

namespace Sys2Proof.Machine

open Sys2Proof.Claims

/-- The ranges R85 gives the quantities of an error record of a frame of length `len`. -/
def ErrRec.InRange (len : Nat) : ErrRec → Prop
  | .truncated .ethernet n a => n = 14 ∧ a = len ∧ a < n
  | .truncated .ipv4 n a => 34 ≤ n ∧ n ≤ 74 ∧ a = len ∧ a < n
  | .truncated .tcp n a => 54 ≤ n ∧ n ≤ 134 ∧ a = len ∧ a < n
  | .invalidLength st w => st ≠ .ethernet ∧ w.toNat < 5

/-- The error of a result, if it has one, is in range. -/
def Res.ErrInRange (r : Res) (len : Nat) : Prop := ∀ e, r.err = some e → e.InRange len

theorem Res.errInRange_endChain {r : Res} {len : Nat} (h : r.err = none) (c : ChainEnd) : (r.endChain c).ErrInRange len := by
  intro e he
  simp [h] at he

theorem Res.errInRange_raise {r : Res} {e : ErrRec} {len : Nat} (h : e.InRange len) : (r.raise e).ErrInRange len := by
  rintro _ ⟨⟩
  exact h

/-- The cursor holds T whole (R28, R34). -/
theorem Frame.tcpAt_toNat (f : Frame) : (BitVec.ofNat 7 f.tcpAt).toNat = f.tcpAt := f.tcpOf_off

/-- T is at least 34 where the IPv4 stage accepted the header (R85). -/
theorem Frame.le_tcpAt {f : Frame} (h : 5 ≤ (loNibble (f.byteAt 14)).toNat) : 34 ≤ f.tcpAt := by
  rw [f.tcpAt_eq]; omega

theorem le_tcpAt_of_hasIp {f : Frame} (h : hasIp f) : 34 ≤ f.tcpAt := by
  obtain ⟨_, _, h5, _, _⟩ := (hasIp_iff f).mp h
  exact Frame.le_tcpAt h5

/-- The cursor and the error of the TCP part of a resolution are in range. -/
theorem chainAfterIpv4_ranges {f : Frame} {r : Res} {c : BitVec 7} (hmin : 34 ≤ f.tcpAt)
    (h : chainAfterIpv4 f f.resIp f.ipOf = some (r, c)) : c.toNat ≤ 74 ∧ r.ErrInRange f.len := by
  have hmax : f.tcpAt ≤ 74 := f.tcpStart_le
  have hdoff : (hiNibble (f.byteAt (f.tcpAt + 12))).toNat < 16 := (hiNibble (f.byteAt (f.tcpAt + 12))).isLt
  rcases chainAfterIpv4_cases f with ⟨_, h'⟩ | ⟨_, r', h', hr⟩ <;> cases h.symm.trans h'
  · exact ⟨by decide, Res.errInRange_endChain rfl _⟩
  · refine ⟨by rwa [f.tcpAt_toNat], ?_⟩
    rcases hr with ⟨h13, rfl⟩ | ⟨_, h5, rfl⟩ | ⟨_, h5, hl, rfl⟩ | ⟨_, _, _, rfl⟩
    · exact Res.errInRange_raise ⟨by omega, by omega, rfl, by omega⟩
    · exact Res.errInRange_raise ⟨nofun, h5⟩
    · exact Res.errInRange_raise ⟨by omega, by omega, rfl, hl⟩
    · exact Res.errInRange_endChain rfl _

/-- The cursor and the error of a resolution are in range, whichever way it ends (R85). -/
theorem chainResolve_ranges {f : Frame} {r : Res} {c : BitVec 7} (h : chainResolve f = some (r, c)) :
    c.toNat ≤ 74 ∧ r.ErrInRange f.len := by
  have hmax : f.tcpAt ≤ 74 := f.tcpStart_le
  rcases chainResolve_cases f with ⟨h14, h'⟩ | ⟨_, _, h'⟩ | ⟨h14, _, h'⟩ | ⟨_, _, h5, h'⟩ | ⟨_, _, h5, hl, h'⟩ |
    ⟨_, _, _, _, _, h'⟩ | ⟨_, _, h5, _, _, h'⟩ <;> rw [h'] at h
  case inr.inr.inr.inr.inr.inr => exact chainAfterIpv4_ranges (Frame.le_tcpAt h5) h
  all_goals cases h; refine ⟨by decide, ?_⟩
  · exact Res.errInRange_raise ⟨rfl, rfl, h14⟩
  · exact Res.errInRange_endChain rfl _
  · exact Res.errInRange_raise ⟨by decide, by decide, rfl, by omega⟩
  · exact Res.errInRange_raise ⟨nofun, h5⟩
  · exact Res.errInRange_raise ⟨Frame.le_tcpAt h5, hmax, rfl, hl⟩
  · exact Res.errInRange_endChain rfl _

/-- Settles O33: the cursor and the error by the way the chain ends, the lengths of the views by 5 ≤ IHL, DOFF ≤ 15. -/
theorem resolverQuantitiesStayInRange : Obligations.ResolverQuantitiesStayInRange := by
  intro f r c h
  obtain ⟨hcur, herr⟩ := chainResolve_ranges h
  obtain ⟨_, hip, htcp⟩ := chainResolve_viewsIn h
  have hmax : f.tcpAt ≤ 74 := f.tcpStart_le
  refine ⟨hcur, fun v hv => ?_, fun v hv => ?_, fun _ _ he => herr _ he, fun _ _ he => herr _ he, fun _ _ he => herr _ he,
    fun _ _ he => herr _ he⟩
  · obtain ⟨hP, rfl⟩ := hip.eq_of_some hv
    exact ⟨f.ipOf_len ▸ Nat.dvd_mul_left 4 _, le_tcpAt_of_hasIp hP, hmax⟩
  · obtain ⟨hP, rfl⟩ := htcp.eq_of_some hv
    obtain ⟨hipP, _, _, h5, _⟩ := (hasTcp_iff f).mp hP
    have hmin := le_tcpAt_of_hasIp hipP
    have hdoff : (hiNibble (f.byteAt (f.tcpAt + 12))).toNat < 16 := (hiNibble (f.byteAt (f.tcpAt + 12))).isLt
    rw [f.tcpOf_off, f.tcpOf_len]
    exact ⟨Nat.dvd_mul_left 4 _, by omega, by omega⟩

end Sys2Proof.Machine

/-! ## A resolution spread over its stages (O36) -/

namespace Sys2Proof.Machine

theorem Res.selectsIpv4_iff (r : Res) : r.selectsIpv4 = true ↔ ∃ ev, r.eth = some ev ∧ ev.ethertype = 0x0800 := by
  unfold Res.selectsIpv4
  cases r.eth with
  | none => simp
  | some ev => simp [show ethertypeIpv4 = 0x0800 from rfl]

theorem Res.selectsTcp_eq_some_iff (r : Res) (t : Nat) :
    r.selectsTcp = some t ↔ ∃ iv, r.ip = some iv ∧ iv.protocol = 6 ∧ 14 + iv.len.toNat = t := by
  unfold Res.selectsTcp
  cases r.ip with
  | none => simp
  | some iv => simp [show tcpProto = 6 from rfl, show ipv4Base = 14 from rfl]

/-- `n` operations of the spread resolution end at DONE with the result `r` and the cursor `c`, and change nothing else but the value
passed between the stages. -/
def State.SpreadsTo (s : State) (n : Nat) (r : Res) (c : BitVec 7) : Prop :=
  ∃ ret, s.chainSpread n = .next { s with res := r, stage := .done, cur := c, ret := ret }

/-- At DONE the spread resolution changes nothing more. -/
theorem State.chainSpread_done {s : State} (h : s.stage = .done) (n : Nat) : s.chainSpread n = .next s := by
  induction n with
  | zero => rfl
  | succ n ih => simp only [State.chainSpread, State.chainAdvance, h, ih]

section
variable {s : State} {n : Nat} {r : Res} {c : BitVec 7} {ret : Option Returned}

/-- An operation that ends the chain ends the spread resolution. -/
theorem State.SpreadsTo.of_end (h : s.chainAdvance = .next { s with res := r, stage := .done, cur := c, ret := ret }) :
    s.SpreadsTo (n + 1) r c := by
  refine ⟨ret, ?_⟩
  simp only [State.chainSpread, h]
  exact State.chainSpread_done rfl n

/-- An operation that hands over to the next stage leaves the rest to it. -/
theorem State.SpreadsTo.of_handover {res : Res} {stage : SeqStage} {cur : BitVec 7}
    (h : s.chainAdvance = .next { s with res := res, stage := stage, cur := cur, ret := ret })
    (hrest : State.SpreadsTo { s with res := res, stage := stage, cur := cur, ret := ret } n r c) : s.SpreadsTo (n + 1) r c := by
  obtain ⟨ret', hspread⟩ := hrest
  refine ⟨ret', ?_⟩
  simp only [State.chainSpread, h]
  exact hspread

/-- The operation at the Ethernet stage takes what the stage returns of the frame. -/
theorem State.chainAdvance_eth (hrun : s.running = true) (hst : s.stage = .eth) {x : StageResult EthView}
    (hx : ethStage s.frame = some x) :
    s.chainAdvance = .next (s.putReturn .eth 0 (some (.eth x))).chainTake := by
  simp only [State.chainAdvance, hst, execEthResolve, hx, Option.map_some, s.resolverStep_running _ hrun]

/-- The operation at a selected IPv4 stage takes what the stage returns of the frame. -/
theorem State.chainAdvance_ipv4 (hrun : s.running = true) (hst : s.stage = .ipv4) (hsel : s.res.selectsIpv4 = true)
    {x : IpResult} (hx : ipv4Stage s.frame = some x) :
    s.chainAdvance = .next (s.putReturn .ipv4 14 (some (.ip x))).chainTake := by
  simp only [State.chainAdvance, hst, execIpv4Resolve, hsel, if_true, hx, Option.map_some, s.resolverStep_running _ hrun, ipv4Base]

/-- The operation at a selected TCP stage takes what the stage returns of the frame. -/
theorem State.chainAdvance_tcp (hrun : s.running = true) (hst : s.stage = .tcp) {t : Nat} (hsel : s.res.selectsTcp = some t)
    {x : StageResult TcpView} (hx : tcpStage s.frame t = some x) :
    s.chainAdvance = .next (s.putReturn .tcp t (some (.tcp x))).chainTake := by
  simp only [State.chainAdvance, hst, execTcpResolve, hsel, hx, Option.map_some, s.resolverStep_running _ hrun]

/-- From the TCP stage one operation ends as the chain's TCP part does. -/
theorem State.spreadsTo_tcp (hrun : s.running = true) (hst : s.stage = .tcp) {iv : IpView} (hip : s.res.ip = some iv)
    (hp : iv.protocol = 6) (h : chainAfterIpv4 s.frame s.res iv = some (r, c)) : s.SpreadsTo 1 r c := by
  have hsel := (s.res.selectsTcp_eq_some_iff _).mpr ⟨iv, hip, hp, rfl⟩
  obtain ⟨x, hx⟩ := tcpStage_some s.frame (14 + iv.len.toNat)
  have hadvance := State.chainAdvance_tcp hrun hst hsel hx
  cases x with
  | fail e =>
    rw [chainAfterIpv4_of_tcp_fail hp hx] at h
    cases h
    exact .of_end hadvance
  | ok tv =>
    rw [chainAfterIpv4_of_tcp_ok hp hx] at h
    cases h
    exact .of_end hadvance

/-- From the IPv4 stage at most two operations end as the chain's IPv4 part does. -/
theorem State.spreadsTo_ipv4 (hrun : s.running = true) (hst : s.stage = .ipv4) {ev : EthView} (heth : s.res.eth = some ev)
    (he : ev.ethertype = 0x0800) (h : chainAfterEth s.frame s.res ev = some (r, c)) : s.SpreadsTo 2 r c := by
  have hsel := s.res.selectsIpv4_iff.mpr ⟨ev, heth, he⟩
  obtain ⟨x, hx⟩ := ipv4Stage_some s.frame
  have hadvance := State.chainAdvance_ipv4 hrun hst hsel hx
  cases x with
  | fail e =>
    rw [chainAfterEth_of_ip_fail he hx] at h
    cases h
    exact .of_end hadvance
  | skip =>
    rw [chainAfterEth_of_ip_skip he hx] at h
    cases h
    exact .of_end hadvance
  | ok iv =>
    rw [chainAfterEth_of_ip_ok he hx] at h
    by_cases hp : iv.protocol = 6
    · have htake := hadvance.trans (congrArg _ (if_pos hp))
      exact .of_handover htake (State.spreadsTo_tcp hrun rfl rfl hp h)
    · rw [chainAfterIpv4_of_not_tcp hp] at h
      cases h
      exact .of_end (hadvance.trans (congrArg _ (if_neg hp)))

/-- From the start three operations end as the chain does. -/
theorem State.spreadsTo_eth (hrun : s.running = true) (hst : s.stage = .eth) (hres : s.res = Res.start s.flen)
    (h : chainResolve s.frame = some (r, c)) : s.SpreadsTo 3 r c := by
  obtain ⟨x, hx⟩ := ethStage_some s.frame
  have hadvance := State.chainAdvance_eth hrun hst hx
  cases x with
  | fail e =>
    rw [chainResolve_of_eth_fail hx, s.frame_len, ← hres] at h
    cases h
    exact .of_end hadvance
  | ok ev =>
    rw [chainResolve_of_eth_ok hx, s.frame_len, ← hres] at h
    by_cases he : ev.ethertype = 0x0800
    · have htake := hadvance.trans (congrArg _ (if_pos he))
      exact .of_handover htake (State.spreadsTo_ipv4 hrun rfl rfl he h)
    · rw [chainAfterEth_of_not_ipv4 he] at h
      cases h
      exact .of_end (hadvance.trans (congrArg _ (if_neg he)))

end

/-- Settles O36: stage by stage the operations of the spread resolution end where the atomic one's parts do. -/
theorem spreadResolutionAgreesWithTheAtomicOne : Obligations.SpreadResolutionAgreesWithTheAtomicOne := by
  intro s hrun
  obtain ⟨r, c, hr, hexec⟩ := execChainResolve_eq s
  obtain ⟨ret, hspread⟩ : s.chainStart.SpreadsTo 3 r c := State.spreadsTo_eth hrun rfl rfl hr
  exact ⟨_, _, hexec.trans (s.resolverStep_running _ hrun), hspread, rfl, rfl⟩

end Sys2Proof.Machine

/-! ## Operations outside their condition (O45) -/

namespace Sys2Proof.Machine

open Sys2Proof.Claims

/-- A resolver operation that would leave the state as it is does so whether the parser runs or not. -/
theorem State.resolverStep_self (s : State) : s.resolverStep s = .next s := ite_self _

section
variable {s : State} {i : Instr} {a n : Nat}

theorem State.ReadsEth.absent (h : s.ReadsEth i a n) (hv : s.res.eth = none) : exec i s = .next s := by
  obtain ⟨_, x, put, he, _⟩ := h
  rw [he, State.putEth_idle (by simp [hv]), s.resolverStep_self]

theorem State.ReadsIp.absent (h : s.ReadsIp i a n) (hv : s.res.ip = none) : exec i s = .next s := by
  obtain ⟨_, x, put, he, _⟩ := h
  rw [he, State.putIp_idle (by simp [hv]), s.resolverStep_self]

theorem State.ReadsTcp.absent (h : s.ReadsTcp i a n) (hv : s.res.tcp = none) : exec i s = .next s := by
  obtain ⟨_, x, put, he, _⟩ := h
  rw [he, State.putTcp_idle (by simp [hv]), s.resolverStep_self]

end

theorem exec_ipv4Resolve_unselected {s : State} (h : ∀ ev, s.res.eth = some ev → ev.ethertype ≠ 0x0800) :
    exec .ipv4Resolve s = .next s := by
  refine if_neg fun hsel => ?_
  obtain ⟨ev, hev, he⟩ := s.res.selectsIpv4_iff.mp hsel
  exact h ev hev he

theorem exec_tcpResolve_unselected {s : State} (h : ∀ iv, s.res.ip = some iv → iv.protocol ≠ 6) :
    exec .tcpResolve s = .next s := by
  simp only [exec, execTcpResolve]
  split
  · rfl
  · next t hsel =>
    obtain ⟨iv, hiv, hp, _⟩ := (s.res.selectsTcp_eq_some_iff t).mp hsel
    exact absurd hp (h iv hiv)

theorem exec_ipLen_absent {s : State} (hv : s.res.ip = none) : exec .ipLen s = .next s := by
  simp only [exec, execIpLen]
  rw [State.putIp_idle (by simp [hv]), s.resolverStep_self]

theorem exec_tcpLen_absent {s : State} (hv : s.res.tcp = none) : exec .tcpLen s = .next s := by
  simp only [exec, execTcpLen]
  rw [State.putTcp_idle (by simp [hv]), s.resolverStep_self]

/-- Settles O45: a stage tests its selector first, and an accessor of an absent view has nothing to write. -/
theorem operationsOutsideTheirConditionDoNothing : Obligations.OperationsOutsideTheirConditionDoNothing := fun s =>
  ⟨exec_ipv4Resolve_unselected, exec_tcpResolve_unselected, fun hv p hp => (s.readsEth p hp).absent hv,
    fun hv => List.forall_mem_cons.mpr ⟨exec_ipLen_absent hv, fun p hp => (s.readsIp p hp).absent hv⟩,
    fun hv => List.forall_mem_cons.mpr ⟨exec_tcpLen_absent hv, fun p hp => (s.readsTcp p hp).absent hv⟩⟩

end Sys2Proof.Machine

/-! ## The Ethernet stage and its accessors (O26, O37) -/

namespace Sys2Proof.Machine

open Sys2Proof.Claims

section
variable {s : State}

/-- While the parser runs, a stage that returns a value leaves it to CHAIN_RESOLVE and writes no register (log 9). -/
theorem State.resolverStep_putReturn (hrun : s.running = true) (stage : SeqStage) (cur : Nat) (v : Returned) :
    s.resolverStep (s.putReturn stage cur (some v)) =
      .next { s with stage := stage, cur := BitVec.ofNat 7 cur, ret := some v } :=
  s.resolverStep_running _ hrun

/-- While the parser runs, an accessor of a present Ethernet view puts the value it read into its field and changes nothing else. -/
theorem State.resolverStep_putEth {α : Type} {v : EthView} {x : Option α} {a : α} (hrun : s.running = true)
    (hv : s.res.eth = some v) (hx : x = some a) (put : EthView → α → EthView) :
    s.resolverStep (s.putEth x put) = .next { s with res := { s.res with eth := some (put v a) } } := by
  rw [s.resolverStep_running _ hrun, hx]
  simp only [State.putEth, hv]

end

/-- Settles O26: the stage is a function of the frame's bytes, and what it returns goes to the model's own field. -/
theorem ethResolveReturnsItsView : Obligations.EthResolveReturnsItsView := by
  intro s hrun
  have hstage : exec .ethResolve s = s.resolverStep (s.putReturn .eth 0 ((ethStage s.frame).map .eth)) := rfl
  rw [hstage, ethStage_eq, Option.map_some]
  exact State.resolverStep_putReturn hrun .eth 0 _

/-- Settles O37: the three fields lie in the header's 14 bytes, so each accessor's read answers its bytes. -/
theorem ethernetAccessorsReadTheirBytes : Obligations.EthernetAccessorsReadTheirBytes := by
  intro s v hrun hv hlen
  have hdst : 0 + 6 ≤ s.frame.len := le_trans (by decide) hlen
  have hsrc : 6 + 6 ≤ s.frame.len := le_trans (by decide) hlen
  have hethertype : 12 + 2 ≤ s.frame.len := hlen
  exact ⟨State.resolverStep_putEth hrun hv (s.frame.read6_of_le 0 hdst) _,
    State.resolverStep_putEth hrun hv (s.frame.read6_of_le 6 hsrc) _,
    State.resolverStep_putEth hrun hv (s.frame.read2_of_le 12 hethertype) _⟩

end Sys2Proof.Machine

/-! ## The IPv4 stage and its accessors (O27, O38, O39) -/

namespace Sys2Proof.Machine

section
variable {s : State} {v : IpView}

/-- While the parser runs, an accessor of a present IPv4 view puts the value it read into its field and changes nothing else. -/
theorem State.resolverStep_putIp {α : Type} {x : IpView → Option α} {a : α} (hrun : s.running = true)
    (hv : s.res.ip = some v) (hx : x v = some a) (put : IpView → α → IpView) :
    s.resolverStep (s.putIp x put) = .next { s with res := { s.res with ip := some (put v a) } } := by
  rw [s.resolverStep_running _ hrun]
  simp only [State.putIp, hv, hx]

/-- Where it is selected, IPV4_RESOLVE returns what the stage says of the frame (R76, R91). -/
theorem exec_ipv4Resolve_selected {ev : EthView} (hev : s.res.eth = some ev) (he : ev.ethertype = 0x0800) :
    exec .ipv4Resolve s = s.resolverStep (s.putReturn .ipv4 14 ((ipv4Stage s.frame).map .ip)) :=
  if_pos (s.res.selectsIpv4_iff.mpr ⟨ev, hev, he⟩)

end

/-- Six bits hold the length in bytes of any IHL (R66, R96). -/
theorem fieldIpLen_toNat (ihl : BitVec 4) : (fieldIpLen ihl).toNat = ihl.toNat * 4 := by
  have hihl : ihl.toNat < 16 := ihl.isLt
  exact Nat.mod_eq_of_lt (show ihl.toNat * 4 < 64 by omega)

/-- Settles O27: the selected stage is a function of the frame's bytes, and what it returns goes to the model's own field. -/
theorem ipv4ResolveReturnsItsView : Obligations.Ipv4ResolveReturnsItsView := by
  intro s ev hrun hev he
  rw [exec_ipv4Resolve_selected hev he, ipv4Stage_eq, Option.map_some, State.resolverStep_putReturn hrun]
  simp only [ne_eq, ite_not]
  rfl

/-- Settles O38: the fields lie in the 20 bytes of the header's fixed part, so each accessor's read answers its bytes. -/
theorem ipv4AccessorsReadTheirBytes : Obligations.Ipv4AccessorsReadTheirBytes := by
  intro s v hrun hv hlen
  have hin : ∀ {n}, n ≤ 34 → n ≤ s.frame.len := fun hn => hn.trans hlen
  have hbyte14 : s.frame.read1 14 = some (s.frame.byteAt 14) := s.frame.read1_of_le 14 (hin (by decide))
  exact ⟨State.resolverStep_putIp hrun hv (congrArg (Option.map hiNibble) hbyte14) _,
    State.resolverStep_putIp hrun hv (congrArg (Option.map loNibble) hbyte14) _,
    State.resolverStep_putIp hrun hv (s.frame.read1_of_le 15 (hin (by decide))) _,
    State.resolverStep_putIp hrun hv (s.frame.read2_of_le 16 (hin (by decide))) _,
    State.resolverStep_putIp hrun hv (s.frame.read2_of_le 18 (hin (by decide))) _,
    State.resolverStep_putIp hrun hv (s.frame.read1_of_le 22 (hin (by decide))) _,
    State.resolverStep_putIp hrun hv (s.frame.read1_of_le 23 (hin (by decide))) _,
    State.resolverStep_putIp hrun hv (s.frame.read2_of_le 24 (hin (by decide))) _,
    State.resolverStep_putIp hrun hv (s.frame.read4_of_le 26 (hin (by decide))) _,
    State.resolverStep_putIp hrun hv (s.frame.read4_of_le 30 (hin (by decide))) _⟩

/-- IP.LEN writes its operand's scaled value, whatever the frame holds (R96). -/
theorem exec_ipLen_present {s : State} {v : IpView} (hrun : s.running = true) (hv : s.res.ip = some v) :
    exec .ipLen s = .next { s with res := { s.res with ip := some { v with len := fieldIpLen v.ihl } } } :=
  State.resolverStep_putIp (x := fun v => some (fieldIpLen v.ihl)) hrun hv rfl _

/-- Settles O39: what the accessor writes is IHL × 4 in 6 bits. -/
theorem ipLenIsFourTimesIhl : Obligations.IpLenIsFourTimesIhl :=
  fun _ v hrun hv => ⟨fieldIpLen v.ihl, exec_ipLen_present hrun hv, fieldIpLen_toNat v.ihl⟩

end Sys2Proof.Machine

/-! ## The TCP stage and its accessors (O28, O40, O41, O42) -/

namespace Sys2Proof.Machine

section
variable {s : State} {v : TcpView}

/-- While the parser runs, an accessor of a present TCP view puts the value it read into its field and changes nothing else. -/
theorem State.resolverStep_putTcp {α : Type} {x : TcpView → Option α} {a : α} (hrun : s.running = true)
    (hv : s.res.tcp = some v) (hx : x v = some a) (put : TcpView → α → TcpView) :
    s.resolverStep (s.putTcp x put) = .next { s with res := { s.res with tcp := some (put v a) } } := by
  rw [s.resolverStep_running _ hrun]
  simp only [State.putTcp, hv, hx]

/-- Where it is selected, TCP_RESOLVE returns what the stage says of the frame at T = 14 + ip_len (R77, R106). -/
theorem exec_tcpResolve_selected {iv : IpView} (hiv : s.res.ip = some iv) (hp : iv.protocol = 6) :
    exec .tcpResolve s = s.resolverStep (s.putReturn .tcp (14 + iv.len.toNat)
      ((tcpStage s.frame (14 + iv.len.toNat)).map .tcp)) := by
  have hsel := (s.res.selectsTcp_eq_some_iff _).mpr ⟨iv, hiv, hp, rfl⟩
  simp only [exec, execTcpResolve, hsel]

/-- TCP.LEN writes its operand's scaled value, whatever the frame holds (R114). -/
theorem exec_tcpLen_present (hrun : s.running = true) (hv : s.res.tcp = some v) :
    exec .tcpLen s = .next { s with res := { s.res with tcp := some { v with len := fieldTcpLen v.doff } } } :=
  State.resolverStep_putTcp (x := fun v => some (fieldTcpLen v.doff)) hrun hv rfl _

end

/-- Six bits hold the length in bytes of any DOFF (R66, R114): `tcp.len` and `ip.len` are scaled alike. -/
theorem fieldTcpLen_toNat (doff : BitVec 4) : (fieldTcpLen doff).toNat = doff.toNat * 4 := fieldIpLen_toNat doff

/-- Settles O28: the selected stage is a function of the frame's bytes from T, and what it returns goes to the model's own field. -/
theorem tcpResolveReturnsItsView : Obligations.TcpResolveReturnsItsView := by
  rintro s iv _ hrun hiv hp rfl
  rw [exec_tcpResolve_selected hiv hp, tcpStage_eq, Option.map_some, State.resolverStep_putReturn hrun]
  rfl

/-- Settles O40: the fields lie in the 20 bytes of the header's fixed part, so each accessor's read answers its bytes. -/
theorem tcpAccessorsReadTheirBytes : Obligations.TcpAccessorsReadTheirBytes := by
  rintro s _ v _ hrun _ hv _ rfl hlen
  have hin : v.off.toNat + 20 ≤ s.frame.len := hlen
  have hbyte12 : s.frame.read1 (v.off.toNat + 12) = some (s.frame.byteAt (v.off.toNat + 12)) :=
    s.frame.read1_of_le _ (by omega)
  exact ⟨State.resolverStep_putTcp hrun hv (s.frame.read2_of_le v.off.toNat (by omega)) _,
    State.resolverStep_putTcp hrun hv (s.frame.read2_of_le (v.off.toNat + 2) (by omega)) _,
    State.resolverStep_putTcp hrun hv (s.frame.read4_of_le (v.off.toNat + 4) (by omega)) _,
    State.resolverStep_putTcp hrun hv (s.frame.read4_of_le (v.off.toNat + 8) (by omega)) _,
    State.resolverStep_putTcp hrun hv (congrArg (Option.map hiNibble) hbyte12) _,
    State.resolverStep_putTcp hrun hv (s.frame.read2_of_le (v.off.toNat + 14) (by omega)) _,
    State.resolverStep_putTcp hrun hv (s.frame.read2_of_le (v.off.toNat + 16) (by omega)) _,
    State.resolverStep_putTcp hrun hv (s.frame.read2_of_le (v.off.toNat + 18) (by omega)) _⟩

/-- Settles O41: what the accessor writes is DOFF × 4 in 6 bits. -/
theorem tcpLenIsFourTimesDoff : Obligations.TcpLenIsFourTimesDoff :=
  fun _ v hrun hv => ⟨fieldTcpLen v.doff, exec_tcpLen_present hrun hv, fieldTcpLen_toNat v.doff⟩

/-- Settles O42: each accessor reads one binary digit of byte T + 13, URG that of 2 ^ 5 down to FIN that of 1. -/
theorem tcpFlagsAreBitsOfByteThirteen : Obligations.TcpFlagsAreBitsOfByteThirteen := by
  rintro s _ v _ _ hrun _ hv _ rfl hlen rfl
  have hflag := fun k => fieldTcpFlag_of_le (f := s.frame) k hlen
  have hfin : fieldTcpFin s.frame v.off.toNat = some (decide ((s.frame.byteAt (v.off.toNat + 13)).toNat % 2 = 1)) := by
    rw [fieldTcpFin, hflag, pow_zero, Nat.div_one]
  exact ⟨State.resolverStep_putTcp hrun hv (hflag 5) _, State.resolverStep_putTcp hrun hv (hflag 4) _,
    State.resolverStep_putTcp hrun hv (hflag 3) _, State.resolverStep_putTcp hrun hv (hflag 2) _,
    State.resolverStep_putTcp hrun hv (hflag 1) _, State.resolverStep_putTcp hrun hv hfin _⟩

end Sys2Proof.Machine

/-! ## The row of the control table a parser step takes (O6, O7, O10, O11) -/

namespace Sys2Proof.Machine

section
variable {s : State}

theorem State.select_reset (hr : s.pins.rst = true) : s.select = some .reset := if_pos hr

theorem State.select_stop (hr : s.pins.rst = false) (hw : s.ctl = .waiting) (hs : s.pins.stopReq = true) :
    s.select = some .stop := by
  simp [State.select, hr, hw, hs]

theorem State.select_outAccept (hr : s.pins.rst = false) (hp : s.ctl = .processing) (ho : s.pins.outReady = true) :
    s.select = some .outAccept := by
  simp [State.select, hr, hp, ho]

/-- A WAITING machine to which nothing is offered takes no row (R136). -/
theorem State.select_waiting_none (hw : s.ctl = .waiting) (hr : s.pins.rst = false) (hs : s.pins.stopReq = false)
    (hv : s.pins.inValid = false) : s.select = none := by
  simp [State.select, hw, hr, hs, hv]

/-- A pending result whose sink is not ready takes no row (R134). -/
theorem State.select_processing_none (hp : s.ctl = .processing) (hr : s.pins.rst = false) (ho : s.pins.outReady = false) :
    s.select = none := by
  simp [State.select, hp, hr, ho]

/-- Without reset a terminal state takes no row (R135). -/
theorem State.select_terminal_none (he : s.ctl = .stopped ∨ s.ctl = .halted) (hr : s.pins.rst = false) : s.select = none := by
  rcases he with hc | hc <;> simp [State.select, hc, hr]

theorem State.inReady_eq_false (hw : s.ctl ≠ .waiting) : s.inReady = false := by simp [State.inReady, hw]

theorem runLevels_of_select {i : Instr} (h : s.select = some i) : runLevels s = exec i s := by
  simp only [runLevels, h]

theorem runLevels_of_select_none (h : s.select = none) : runLevels s = .next s := by
  simp only [runLevels, h]

end

/-- Settles O6: one selection for each of the three signals that come first. -/
theorem resetThenStopThenInput : Obligations.ResetThenStopThenInput :=
  ⟨fun _ => State.select_reset, fun _ => State.select_stop, fun _ => State.select_outAccept⟩

/-- Settles O7: levels on the agenda and an empty agenda are the two turns of the parser. -/
theorem stepRunsTheSelectedOperation : Obligations.StepRunsTheSelectedOperation := by
  refine ⟨fun s p rest ha => step_parserTurn s _ ?_, fun _ _ => runLevels_of_select, fun _ => runLevels_of_select_none,
    fun s ha => step_parserTurn s _ ?_⟩
  · rw [State.parserTurn, ha]
  · rw [State.parserTurn, ha]

/-- Settles O10: no row is selected, and the outputs are those of PROCESSING. -/
theorem resultIsHeldUntilTheSinkIsReady : Obligations.ResultIsHeldUntilTheSinkIsReady := by
  intro s hp hr ho
  refine ⟨runLevels_of_select_none (State.select_processing_none hp hr ho), s.outValid_iff.mpr hp, rfl,
    State.inReady_eq_false (by simp [hp])⟩

/-- Settles O11: no row is selected. -/
theorem waitingChangesNothing : Obligations.WaitingChangesNothing :=
  fun _ hw hr hs hv => runLevels_of_select_none (State.select_waiting_none hw hr hs hv)

end Sys2Proof.Machine

/-! ## What each control transaction does (O12 to O18) -/

namespace Sys2Proof.Machine

section
variable {s : State}

theorem State.inReady_of_waiting (hw : s.ctl = .waiting) (hs : s.pins.stopReq = false) : s.inReady = true :=
  s.inReady_iff.mpr ⟨hw, hs⟩

theorem exec_inFrameOversize {len : Nat} (hready : s.inReady = true) (hl : s.cfg.maxFrameLen < len) :
    exec (.inFrameOversize len) s = .next (s.addRefusal .oversizeFrame) := by
  simp [exec, execInFrameOversize, hready, hl]

theorem exec_inFatal (cause : Nat) (hready : s.inReady = true) : exec (.inFatal cause) s = .next (s.takeFatal cause) :=
  if_pos hready

theorem exec_inReserved (hready : s.inReady = true) : exec .inReserved s = .next (s.addRefusal .reservedInKind) :=
  if_pos hready

theorem exec_stop_waiting (hw : s.ctl = .waiting) : exec .stop s = .next { s with ctl := .stopped } := if_pos hw

theorem exec_stop_not_waiting (hw : s.ctl ≠ .waiting) : exec .stop s = .next s := if_neg hw

theorem exec_outAccept_processing (hp : s.ctl = .processing) : exec .outAccept s = .next s.acceptResult :=
  if_pos (s.outValid_iff.mpr hp)

end

/-- Settles O12: the transfer writes the bytes from address 0, and the resolution is that of the buffer so written. -/
theorem inFrameLoadsAndResolves : Obligations.InFrameLoadsAndResolves := by
  rintro s _ data hw hs hl rfl
  obtain ⟨r, c, hres, hexec⟩ := exec_inFrame s data.length data (State.inReady_of_waiting hw hs) hl
  rw [List.take_length] at hres hexec
  refine ⟨_, hexec, fun i hi => ?_, fun i hi => ?_, ⟨c, hres⟩, rfl⟩
  · simpa using Memory.get_writeFrom_inside data s.fb 0 i hi
  · exact Memory.get_writeFrom_after data s.fb 0 i (by omega)

/-- Settles O13: the refused transfer is its mark, which leaves STATE. -/
theorem oversizeFrameIsMarkedRefused : Obligations.OversizeFrameIsMarkedRefused := by
  intro s len hw hs hl
  exact ⟨_, exec_inFrameOversize (State.inReady_of_waiting hw hs) hl, rfl, hw, by simp [State.marksClear]⟩

/-- Settles O14: the operation writes nothing, and `in_kind = 01` selects it. -/
theorem emptyInputIsSkipped : Obligations.EmptyInputIsSkipped := by
  refine ⟨fun _ => rfl, fun s hw hr hs hv hk => ?_⟩
  rw [runLevels_of_select (State.select_input hw hr hs hv), decodeInput_empty hk]
  rfl

/-- Settles O15: the transfer is the entry into the fatal event. -/
theorem fatalInputHalts : Obligations.FatalInputHalts :=
  fun _ cause hw hs => ⟨_, exec_inFatal cause (State.inReady_of_waiting hw hs), rfl, rfl, rfl, rfl⟩

/-- Settles O16: the refused transfer is its mark. -/
theorem reservedInputIsMarkedRefused : Obligations.ReservedInputIsMarkedRefused := by
  intro s hw hs
  exact ⟨_, exec_inReserved (State.inReady_of_waiting hw hs), rfl, by simp [State.marksClear]⟩

/-- Settles O17: the stop tests STATE, and in WAITING it is selected before a pending input. -/
theorem stopIsHonouredInWaitingOnly : Obligations.StopIsHonouredInWaitingOnly := by
  refine ⟨fun s hw => ⟨_, exec_stop_waiting hw, rfl, rfl⟩, fun s hp => exec_stop_not_waiting (by simp [hp]),
    fun s hw hr hs => ?_⟩
  rw [runLevels_of_select (State.select_stop hr hw hs), exec_stop_waiting hw]

/-- Settles O18: the acceptance writes STATE and, of the model's own, the list of results taken. -/
theorem acceptanceReturnsToWaiting : Obligations.AcceptanceReturnsToWaiting :=
  fun _ hp => ⟨_, exec_outAccept_processing hp, rfl, rfl⟩

end Sys2Proof.Machine

/-! ## The terminal states (O21) -/

namespace Sys2Proof.Machine

theorem State.ended_iff (s : State) : s.ended = true ↔ s.ctl = .stopped ∨ s.ctl = .halted := s.srcRelease_iff

section
variable {s : State}

theorem State.running_eq_false (he : s.ctl = .stopped ∨ s.ctl = .halted) : s.running = false := by
  rcases he with hc | hc <;> simp [State.running, hc]

theorem State.ctl_ne_of_terminal (he : s.ctl = .stopped ∨ s.ctl = .halted) : s.ctl ≠ .waiting ∧ s.ctl ≠ .processing := by
  rcases he with hc | hc <;> simp [hc]

theorem State.outValid_eq_false (hp : s.ctl ≠ .processing) : s.outValid = false := by simp [State.outValid, hp]

/-- In a terminal state an operation of the resolver changes nothing: each goes through `resolverStep` (R135). -/
theorem exec_resolver_terminal {i : Instr} (he : s.ctl = .stopped ∨ s.ctl = .halted) (hi : i.levels = none) :
    exec i s = .next s := by
  have hhold : ∀ t, s.resolverStep t = .next s := fun t => s.resolverStep_ended t (State.running_eq_false he)
  cases i with
  | ipv4Resolve =>
    simp only [exec, execIpv4Resolve, hhold]
    split <;> rfl
  | tcpResolve =>
    simp only [exec, execTcpResolve, hhold]
    split <;> rfl
  | inFrame | inFrameOversize | inEmpty | inFatal | inReserved | stop | outAccept | reset => cases hi
  | _ => exact hhold _

/-- In a terminal state a control transaction other than RESET changes nothing: an input needs `in_ready`, a stop WAITING and an
acceptance `out_valid` (R16, R127, R133). -/
theorem exec_control_terminal {i : Instr} {p : Levels} (he : s.ctl = .stopped ∨ s.ctl = .halted) (hi : i.levels = some p)
    (hne : i ≠ .reset) : exec i s = .next s := by
  obtain ⟨hw, hp⟩ := State.ctl_ne_of_terminal he
  obtain ⟨hframe, hoversize, hempty, hfatal, hreserved⟩ := (inputsNeedInReady s).2 (State.inReady_eq_false hw)
  cases i with
  | inFrame len data => exact hframe len data
  | inFrameOversize len => exact hoversize len
  | inEmpty => exact hempty
  | inFatal cause => exact hfatal cause
  | inReserved => exact hreserved
  | stop => exact exec_stop_not_waiting hw
  | outAccept => exact if_neg (by simp [State.outValid_eq_false hp])
  | reset => exact absurd rfl hne
  | _ => cases hi

end

/-- Settles O21: every operation but RESET tests the STATE it runs in, and without reset none is selected. -/
theorem terminalStatesKeepEverything : Obligations.TerminalStatesKeepEverything := by
  refine fun s => ⟨s.ended_iff, fun hended => ?_⟩
  have he := s.ended_iff.mp hended
  obtain ⟨hw, hp⟩ := State.ctl_ne_of_terminal he
  refine ⟨fun i hne => ?_, fun hr => ?_⟩
  · cases hi : i.levels with
    | none => exact exec_resolver_terminal he hi
    | some p => exact exec_control_terminal he hi hne
  · have hnone := State.select_terminal_none he hr
    exact ⟨hnone, runLevels_of_select_none hnone, State.inReady_eq_false hw, State.outValid_eq_false hp⟩

end Sys2Proof.Machine

/-! ## The parser's step and the control table (O22) -/

namespace Sys2Proof.Machine

open Sys2Proof.Claims

/-- The four codes of `in_kind` (R62). -/
theorem inKind_cases (k : BitVec 2) : k = 0b00#2 ∨ k = 0b01#2 ∨ k = 0b10#2 ∨ k = 0b11#2 := by
  revert k
  decide

/-- A FATAL input's cause is what its signal carries (R15, log 4). -/
theorem decodeInput_fatal_mod {c : Params} {p : Levels} (hk : p.inKind = 0b10#2) :
    decodeInput c p = .inFatal (p.inCause % 2 ^ c.causeW) := by
  simp [decodeInput, hk]

section
variable {s : State}

/-- An input transferred in WAITING takes the row of its kind: PROCESSING for a frame, HALTED for a fatal event, and no change of STATE for the
empty and the two refused inputs (R125). -/
theorem exec_decodeInput_tableNext (hw : s.ctl = .waiting) (hr : s.pins.rst = false) (hs : s.pins.stopReq = false)
    (hv : s.pins.inValid = true) (hlen : s.pins.inLen < 2 ^ s.cfg.lenW) :
    ∃ t, exec (decodeInput s.cfg s.pins) s = .next t ∧ t.ctl = tableNext s := by
  have hready := State.inReady_of_waiting hw hs
  rcases inKind_cases s.pins.inKind with hk | hk | hk | hk
  · by_cases hl : s.pins.inLen ≤ s.cfg.maxFrameLen
    · obtain ⟨r, c, _, hexec⟩ := exec_inFrame s s.pins.inLen (s.pins.inData.take s.pins.inLen) hready hl
      rw [decodeInput_frame hk hl]
      exact ⟨_, hexec, by simp [tableNext, hw, hr, hs, hv, hk, hl]⟩
    · rw [decodeInput_oversize hk (Nat.lt_of_not_le hl) hlen]
      exact ⟨_, exec_inFrameOversize hready (Nat.lt_of_not_le hl), by simp [tableNext, hw, hr, hs, hv, hk, hl]⟩
  · rw [decodeInput_empty hk]
    exact ⟨s, rfl, by simp [tableNext, hw, hr, hs, hv, hk]⟩
  · rw [decodeInput_fatal_mod hk]
    exact ⟨_, exec_inFatal _ hready, by simp [tableNext, hw, hr, hs, hv, hk]⟩
  · rw [decodeInput_reserved hk]
    exact ⟨_, exec_inReserved hready, by simp [tableNext, hw, hr, hs, hv, hk]⟩

/-- The rows of WAITING without reset: a stop, an input, or neither. -/
theorem runLevels_waiting_tableNext (hw : s.ctl = .waiting) (hr : s.pins.rst = false)
    (hlen : s.pins.inLen < 2 ^ s.cfg.lenW) : ∃ t, runLevels s = .next t ∧ t.ctl = tableNext s := by
  cases hs : s.pins.stopReq with
  | true =>
    rw [runLevels_of_select (State.select_stop hr hw hs)]
    exact ⟨_, exec_stop_waiting hw, by simp [tableNext, hw, hr, hs]⟩
  | false =>
    cases hv : s.pins.inValid with
    | true =>
      rw [runLevels_of_select (State.select_input hw hr hs hv)]
      exact exec_decodeInput_tableNext hw hr hs hv hlen
    | false =>
      exact ⟨s, runLevels_of_select_none (State.select_waiting_none hw hr hs hv), by simp [tableNext, hw, hr, hs, hv]⟩

/-- The rows of PROCESSING without reset: the sink's acceptance, or none. -/
theorem runLevels_processing_tableNext (hp : s.ctl = .processing) (hr : s.pins.rst = false) :
    ∃ t, runLevels s = .next t ∧ t.ctl = tableNext s := by
  cases ho : s.pins.outReady with
  | true =>
    rw [runLevels_of_select (State.select_outAccept hr hp ho)]
    exact ⟨_, exec_outAccept_processing hp, by simp [tableNext, hp, hr, ho]⟩
  | false =>
    exact ⟨s, runLevels_of_select_none (State.select_processing_none hp hr ho), by simp [tableNext, hp, hr, ho]⟩

/-- A terminal state has no row without reset. -/
theorem runLevels_terminal_tableNext (he : s.ctl = .stopped ∨ s.ctl = .halted) (hr : s.pins.rst = false) :
    ∃ t, runLevels s = .next t ∧ t.ctl = tableNext s := by
  refine ⟨s, runLevels_of_select_none (State.select_terminal_none he hr), ?_⟩
  rcases he with hc | hc <;> simp [tableNext, hc, hr]

end

/-- Settles O22: reset first, then the rows of the STATE the step finds. -/
theorem controlTakesTheRowOfTheTable : Obligations.ControlTakesTheRowOfTheTable := by
  intro s hlen
  cases hr : s.pins.rst with
  | true =>
    rw [runLevels_of_select (State.select_reset hr)]
    exact ⟨s.resetRegisters, rfl, by simp [tableNext, hr]⟩
  | false =>
    cases hc : s.ctl with
    | waiting => exact runLevels_waiting_tableNext hc hr hlen
    | processing => exact runLevels_processing_tableNext hc hr
    | stopped => exact runLevels_terminal_tableNext (.inl hc) hr
    | halted => exact runLevels_terminal_tableNext (.inr hc) hr

end Sys2Proof.Machine

/-! ## A step runs only what the levels offer (O23) -/

namespace Sys2Proof

/-- The levels an operation that changes STATE needs (R125): `in_valid` with the kind of an input, or its own signal. -/
def Levels.Offers (p : Levels) : Instr → Prop
  | .inFrame _ _ => p.inValid = true ∧ p.inKind = 0b00#2
  | .inFatal _ => p.inValid = true ∧ p.inKind = 0b10#2
  | .stop => p.stopReq = true
  | .outAccept => p.outReady = true
  | .reset => p.rst = true
  | _ => True

/-- A valid input's levels offer what the input channel reads from them (R62). -/
theorem Levels.offers_decodeInput (c : Params) {p : Levels} (hv : p.inValid = true) : p.Offers (decodeInput c p) := by
  unfold decodeInput
  split_ifs with h00 _ _ h10
  · exact ⟨hv, h00⟩
  · trivial
  · trivial
  · exact ⟨hv, h10⟩
  · trivial

end Sys2Proof

namespace Sys2Proof.Machine

/-- The operation the signals select is one they offer (R125, R126). -/
theorem State.offers_of_select {s : State} {i : Instr} (h : s.select = some i) : s.pins.Offers i := by
  unfold State.select at h
  split at h
  · next hr => cases h; exact hr
  split at h
  · split_ifs at h with hs hv
    · cases h; exact hs
    · cases h; exact Levels.offers_decodeInput s.cfg hv
  · split_ifs at h with ho
    cases h; exact ho
  · cases h
  · cases h

/-- An operation run from its word is offered by the levels that go with it (log 10). -/
theorem State.offers_withPinsOf (s : State) (i : Instr) : (s.withPinsOf i).pins.Offers i := by
  cases i with
  | inFrame | inFatal => exact ⟨rfl, rfl⟩
  | stop | outAccept | reset => rfl
  | _ => trivial

/-- A step is a change of the environment's side and then nothing, one operation the levels offer, or one write of the Capture Source. -/
theorem step_offered_cases {s t : State} (h : step s = .next t) :
    ∃ agenda pins,
      t = s.withEnv agenda pins ∨
      (∃ i, pins.Offers i ∧ exec i (s.withEnv agenda pins) = .next t) ∨
      (∃ a b, State.hostWrite a b (s.withEnv agenda pins) = .next t) := by
  rcases step_cases s t h with ⟨u, hu, _, rfl⟩ | ⟨u, i, hu, hi, he⟩ | ⟨a, b, rest, _, hw⟩ | ⟨w, rest, i, _, _, he⟩
  · exact ⟨_, _, .inl (s.parserTurn_eq t hu)⟩
  · obtain ⟨agenda, pins, rfl⟩ := State.parserTurn_withEnv hu
    exact ⟨agenda, pins, .inr (.inl ⟨i, State.offers_of_select hi, he⟩)⟩
  · exact ⟨rest, s.pins, .inr (.inr ⟨a, b, hw⟩)⟩
  · rw [State.withPinsOf_eq] at he
    exact ⟨rest, _, .inr (.inl ⟨i, State.offers_withPinsOf _ i, he⟩)⟩

/-- A write of the Capture Source leaves STATE (R43). -/
theorem State.hostWrite_ctl {s t : State} {a : Nat} {b : Byte} (h : State.hostWrite a b s = .next t) : t.ctl = s.ctl := by
  obtain ⟨_, ⟨_, rfl⟩ | ⟨_, rfl⟩⟩ := s.hostWrite_cases t a b h <;> rfl

/-- `t` is reached from STATE `c` with no change of STATE or by a row of R125, under the levels that row requires. -/
def State.ByRowFrom (t : State) (c : Ctl) : Prop :=
  t.ctl = c ∨
  (t.pins.rst = true ∧ t.ctl = .waiting) ∨
  (c = .waiting ∧ t.ctl = .stopped ∧ t.pins.stopReq = true) ∨
  (c = .waiting ∧ t.ctl = .processing ∧ t.pins.stopReq = false ∧ t.pins.inValid = true ∧ t.pins.inKind = 0b00#2 ∧
    t.flen ≤ t.cfg.maxFrameLen) ∨
  (c = .waiting ∧ t.ctl = .halted ∧ t.pins.stopReq = false ∧ t.pins.inValid = true ∧ t.pins.inKind = 0b10#2) ∨
  (c = .processing ∧ t.ctl = .waiting ∧ t.pins.outReady = true)

/-- An operation the levels offer changes STATE by its row of the table only. -/
theorem exec_byRow {i : Instr} {s t : State} (ho : s.pins.Offers i) (h : exec i s = .next t) : t.ByRowFrom s.ctl := by
  cases hp : i.levels with
  | none => exact .inl (exec_resolver_wrote i s t hp h).registers.1
  | some p =>
    rcases exec_control_cases i s t p hp h with rfl | ⟨_, _, _, _, rfl, hready, hl, _, rfl⟩ | ⟨_, _, _, rfl⟩ |
      ⟨_, rfl, hready, rfl⟩ | ⟨_, _, rfl⟩ | ⟨rfl, hw, rfl⟩ | ⟨rfl, hc, rfl⟩ | ⟨rfl, rfl⟩
    · exact .inl rfl
    · obtain ⟨hw, hs⟩ := s.inReady_iff.mp hready
      obtain ⟨hv, hk⟩ := ho
      exact .inr (.inr (.inr (.inl ⟨hw, rfl, hs, hv, hk, hl⟩)))
    · exact .inl (s.addRefusal_ctl _)
    · obtain ⟨hw, hs⟩ := s.inReady_iff.mp hready
      obtain ⟨hv, hk⟩ := ho
      exact .inr (.inr (.inr (.inr (.inl ⟨hw, rfl, hs, hv, hk⟩))))
    · exact .inl (s.addRefusal_ctl _)
    · exact .inr (.inr (.inl ⟨hw, rfl, ho⟩))
    · exact .inr (.inr (.inr (.inr (.inr ⟨hc, rfl, ho⟩))))
    · exact .inr (.inl ⟨ho, rfl⟩)

/-- Settles O23: of the parts of a step only an operation writes STATE, and the levels offer the one that runs. -/
theorem stateChangesOnlyByTheTable : Obligations.StateChangesOnlyByTheTable := by
  intro s t h
  change t.ByRowFrom s.ctl
  obtain ⟨agenda, pins, rfl | ⟨i, ho, he⟩ | ⟨a, b, hw⟩⟩ := step_offered_cases h
  · exact .inl rfl
  · exact exec_byRow (s := s.withEnv agenda pins) ho he
  · exact .inl (State.hostWrite_ctl hw :)

end Sys2Proof.Machine

/-! ## A pending result is served (O56) -/

namespace Sys2Proof.Machine

/-- From a pending result the machine is WAITING again, and the result was emitted or a reset discarded it (R133, R158). -/
def State.ServedIn (s t : State) : Prop :=
  t.ctl = .waiting ∧ (t.emitted = s.emitted ++ [s.res] ∨ t.pins.rst = true)

/-- An operation the levels offer leaves a pending result pending or serves it: an input and a stop need WAITING (R125). -/
theorem exec_pending_cases {i : Instr} {s t : State} (hs : s.ctl = .processing) (ho : s.pins.Offers i)
    (h : exec i s = .next t) : t.ctl = .processing ∨ s.ServedIn t := by
  cases hp : i.levels with
  | none => exact .inl ((exec_resolver_wrote i s t hp h).registers.1.trans hs)
  | some p =>
    have hready : s.inReady ≠ true := by simp [s.inReady_iff, hs]
    rcases exec_control_cases i s t p hp h with rfl | ⟨_, _, _, _, _, hr, _⟩ | ⟨_, _, hr, _⟩ | ⟨_, _, hr, _⟩ | ⟨_, hr, _⟩ |
      ⟨_, hw, _⟩ | ⟨_, _, rfl⟩ | ⟨rfl, rfl⟩
    · exact .inl hs
    · exact absurd hr hready
    · exact absurd hr hready
    · exact absurd hr hready
    · exact absurd hr hready
    · cases hs.symm.trans hw
    · exact .inr ⟨rfl, .inl rfl⟩
    · exact .inr ⟨rfl, .inr ho⟩

/-- A step leaves a pending result pending or serves it. -/
theorem step_pending_cases {s t : State} (hs : s.ctl = .processing) (h : step s = .next t) :
    t.ctl = .processing ∨ s.ServedIn t := by
  obtain ⟨agenda, pins, rfl | ⟨i, ho, he⟩ | ⟨a, b, hw⟩⟩ := step_offered_cases h
  · exact .inl hs
  · exact exec_pending_cases (s := s.withEnv agenda pins) hs ho he
  · exact .inl ((State.hostWrite_ctl hw).trans hs)

/-- In a turn of the parser under `out_ready = 1` and no reset the sink takes the pending result (R133). -/
theorem step_ready {s u : State} (hu : s.parserTurn = some u) (hs : s.ctl = .processing) (hr : u.pins.rst = false)
    (ho : u.pins.outReady = true) : step s = .next u.acceptResult := by
  obtain ⟨agenda, pins, rfl⟩ := State.parserTurn_withEnv hu
  have hs' : (s.withEnv agenda pins).ctl = .processing := hs
  rw [step_parserTurn s _ hu, runLevels_of_select (State.select_outAccept hr hs' ho), exec_outAccept_processing hs']

/-- In a turn of the parser under `out_ready = 1` a pending result does not stay pending: the sink takes it or a reset discards it. -/
theorem step_ready_ctl {s t u : State} (hu : s.parserTurn = some u) (hs : s.ctl = .processing) (ho : u.pins.outReady = true)
    (h : step s = .next t) : t.ctl = .waiting := by
  cases hr : u.pins.rst with
  | true =>
    rw [step_parserTurn s u hu, runLevels_of_select (State.select_reset hr)] at h
    cases h
    rfl
  | false =>
    rw [step_ready hu hs hr ho] at h
    cases h
    rfl

/-- On a run with a weakly fair sink every pending result is served: were it pending for ever, the sink would become ready (R138). -/
theorem pending_served {run : Nat → State} (hrun : IsRun run) (hfair : SinkFair run) {n : Nat}
    (hn : (run n).ctl = .processing) : ∃ m, n ≤ m ∧ (run m).ctl = .processing ∧ (run m).ServedIn (run (m + 1)) := by
  by_contra hnever
  have hstay : ∀ m, n ≤ m → (run m).ctl = .processing := by
    intro m hm
    induction m, hm using Nat.le_induction with
    | base => exact hn
    | succ m hm ih =>
      exact (step_pending_cases ih (hrun m)).resolve_right fun hserved => hnever ⟨m, hm, ih, hserved⟩
  obtain ⟨m, u, hm, hu, ho⟩ := hfair n fun m hm => (State.outValid_iff _).mpr (hstay m hm)
  have hwaiting := step_ready_ctl hu (hstay m hm) ho (hrun m)
  cases (hstay (m + 1) (Nat.le_succ_of_le hm)).symm.trans hwaiting

/-- Settles O56: a ready sink's turn is the acceptance, and a fair sink cannot leave a result pending. -/
theorem aReadyOrFairSinkIsServed : Obligations.AReadyOrFairSinkIsServed := by
  refine ⟨fun s u hu hs hr ho => ?_, fun _ hrun hfair _ => pending_served hrun hfair⟩
  obtain ⟨agenda, pins, rfl⟩ := State.parserTurn_withEnv hu
  exact ⟨_, step_ready hu hs hr ho, rfl, rfl, rfl⟩

end Sys2Proof.Machine

/-! ## The error a resolution records (O30) -/

namespace Sys2Proof.Machine

open Sys2Proof.Claims

/-- The rows of the error table R144 that are left once the IPv4 stage gave a view: those of the TCP stage, where it is reached. -/
def tcpErrorOf (f : Frame) : Option ErrRec :=
  if f.ipOf.protocol ≠ 6 then none
  else if f.len < f.tcpAt + 13 then some (.truncated .tcp (f.tcpAt + 20) f.len)
  else if (hiNibble (f.byteAt (f.tcpAt + 12))).toNat < 5 then some (.invalidLength .tcp (hiNibble (f.byteAt (f.tcpAt + 12))))
  else if f.len < f.tcpAt + (hiNibble (f.byteAt (f.tcpAt + 12))).toNat * 4 then
    some (.truncated .tcp (f.tcpAt + (hiNibble (f.byteAt (f.tcpAt + 12))).toNat * 4) f.len)
  else none

/-- The error table row by row over the chain's own quantities: the rows of the first two stages, then `tcpErrorOf`. -/
theorem errorOf_eq (f : Frame) :
    errorOf f =
      if f.len < 14 then some (.truncated .ethernet 14 f.len)
      else if f.ethOf.ethertype ≠ 0x0800 then none
      else if f.len < 15 then some (.truncated .ipv4 34 f.len)
      else if (loNibble (f.byteAt 14)).toNat < 5 then some (.invalidLength .ipv4 (loNibble (f.byteAt 14)))
      else if f.len < f.tcpAt then some (.truncated .ipv4 f.tcpAt f.len)
      else if hiNibble (f.byteAt 14) ≠ 4 then none
      else tcpErrorOf f := by
  unfold tcpErrorOf
  rw [f.tcpAt_eq]
  rfl

/-- The error of the TCP part of a resolution is the first TCP row that holds. -/
theorem chainAfterIpv4_err {f : Frame} {r : Res} {c : BitVec 7} (h : chainAfterIpv4 f f.resIp f.ipOf = some (r, c)) :
    r.err = tcpErrorOf f := by
  unfold tcpErrorOf
  rcases chainAfterIpv4_cases f with ⟨h6, h'⟩ | ⟨h6, r', h', hr⟩ <;> cases h.symm.trans h'
  · rw [if_pos h6]; rfl
  · rw [if_neg (not_not_intro h6)]
    rcases hr with ⟨h13, rfl⟩ | ⟨h13, h5, rfl⟩ | ⟨h13, h5, hl, rfl⟩ | ⟨h13, h5, hl, rfl⟩
    · rw [if_pos h13]; rfl
    · rw [if_neg h13.not_gt, if_pos h5]; rfl
    · rw [if_neg h13.not_gt, if_neg h5.not_gt, if_pos hl]; rfl
    · rw [if_neg h13.not_gt, if_neg h5.not_gt, if_neg hl.not_gt]; rfl

/-- Settles O30: each way the chain ends passes the rows above its own and takes the table's row. -/
theorem errorsFollowTheTable : Obligations.ErrorsFollowTheTable := by
  intro f r c h
  rw [errorOf_eq]
  rcases chainResolve_cases f with ⟨h14, h'⟩ | ⟨h14, he, h'⟩ | ⟨h14, he, h'⟩ | ⟨h15, he, h5, h'⟩ | ⟨h15, he, h5, hl, h'⟩ |
    ⟨h15, he, h5, hl, h4, h'⟩ | ⟨h15, he, h5, hl, h4, h'⟩ <;> rw [h'] at h
  case inr.inr.inr.inr.inr.inr =>
    rw [if_neg (by omega), if_neg (not_not_intro he), if_neg h15.not_gt, if_neg h5.not_gt, if_neg hl.not_gt,
      if_neg (not_not_intro h4), chainAfterIpv4_err h]
  all_goals cases h
  · rw [if_pos h14]; rfl
  · rw [if_neg h14.not_gt, if_pos he]; rfl
  · rw [if_neg (by omega), if_neg (not_not_intro he), if_pos (by omega)]; rfl
  · rw [if_neg (by omega), if_neg (not_not_intro he), if_neg h15.not_gt, if_pos h5]; rfl
  · rw [if_neg (by omega), if_neg (not_not_intro he), if_neg h15.not_gt, if_neg h5.not_gt, if_pos hl]; rfl
  · rw [if_neg (by omega), if_neg (not_not_intro he), if_neg h15.not_gt, if_neg h5.not_gt, if_neg hl.not_gt, if_pos h4]; rfl

end Sys2Proof.Machine

/-! ## RESET in every state (O19) -/

namespace Sys2Proof.Machine

/-- RESET tests no STATE (R158). -/
theorem exec_reset (s : State) : exec .reset s = .next s.resetRegisters := rfl

section
variable (c : Params) (n : Nat)

@[simp] theorem Res.afterReset_eth : (Res.afterReset c n).eth = none := rfl
@[simp] theorem Res.afterReset_ip : (Res.afterReset c n).ip = none := rfl
@[simp] theorem Res.afterReset_tcp : (Res.afterReset c n).tcp = none := rfl
@[simp] theorem Res.afterReset_err : (Res.afterReset c n).err = none := rfl

end

/-- RESET leaves WAITING, where nothing is offered to the sink. -/
theorem State.resetRegisters_outValid (s : State) : s.resetRegisters.outValid = false :=
  State.outValid_eq_false (by simp)

/-- Settles O19: RESET is the rewriting of the registers, and its fields are those R37 gives or those it found. -/
theorem resetRestoresTheRegisters : Obligations.ResetRestoresTheRegisters :=
  fun s => ⟨s.resetRegisters, exec_reset s, by simp [s.resetRegisters_outValid]⟩

end Sys2Proof.Machine
